-- ==== Sys2Proof/Word.lean ====
section
/-! DEFINITION. The word types of the block: the byte (spec 20_memory.md R42: "The only data unit is the 8-bit byte"),
the 16-bit command word (30_encoding.md R60), the 8-bit event label (30_encoding.md R66) and the 3-bit bit index
(10_state.md R14, R21). All values are unsigned (00_scope.md R8). -/

namespace Sys2Proof

/-- The 8-bit data unit (R42). -/
abbrev Byte := BitVec 8

/-- A host command word, format `CMD16` (R60). -/
abbrev CmdWord := BitVec 16

/-- An internal event label, format `EVT8` (R66). -/
abbrev Label := BitVec 8

/-- A bit index, incrementing modulo 8 (R14, R21). -/
abbrev BitIdx := BitVec 3

end Sys2Proof
end

