-- ==== Sys2Proof/Config.lean ====
section
/-! DEFINITION. The implementation parameters of 00_scope.md R4 and the widths R5 derives from them. The parameters are
arguments of the model: every State carries a `Params`, no step changes it, and a statement about all states is one about
all parameter sets (R6). At its end, the two free values of an access to a slot that does not exist. -/

namespace Sys2Proof

/-- The parameters of 00_scope.md R4, by the spec's names. -/
structure Params where
  /-- BIT_PERIOD: clock cycles per bit period. -/
  P : Nat
  /-- RX_ARM_OFFSET: cycles from arming the RX generator to its first tick. -/
  RX_OFF : Nat
  /-- TX_ARM_OFFSET: cycles from arming the TX generator to its first tick. -/
  TX_OFF : Nat
  /-- RX ring-buffer capacity in bytes. -/
  RX_CAP : Nat
  /-- TX ring-buffer capacity in bytes. -/
  TX_CAP : Nat
  /-- The byte a get on an empty buffer returns. -/
  EMPTY_VALUE : Byte
deriving DecidableEq, Repr

/-- The values of "this hardware" in R4's table, as functions of the open bit period `P`. -/
def Params.defaults (P : Nat) : Params :=
  { P := P, RX_OFF := P / 2, TX_OFF := P, RX_CAP := 128, TX_CAP := 32, EMPTY_VALUE := 0x00#8 }

/-- The parameter set of `State.reset`. DESIGN CHOICE (log entry 1): R4 leaves `P` OPEN; 4 is the period of parameter set S4
of 95_test_vectors.md. Unsafe for a claim that rests on it; no statement does. -/
def Params.ofReset : Params := Params.defaults 4

/-- The bits needed to write `n` in binary, by structural recursion on fuel (`n` is fuel enough). -/
def bitLength : (fuel n : Nat) → Nat
  | 0, _ => 0
  | fuel + 1, n => if n = 0 then 0 else bitLength fuel (n / 2) + 1

/-- `CW = ceil(log2(P + 1))`, the width of each timing-engine counter (R5). -/
def Params.CW (p : Params) : Nat := bitLength p.P p.P

/-- `RIW = max(1, ceil(log2(RX_CAP)))`, the width of the RX indices (R5). -/
def Params.RIW (p : Params) : Nat := max 1 (bitLength (p.RX_CAP - 1) (p.RX_CAP - 1))

/-- `RCW = ceil(log2(RX_CAP + 1))`, the width of the RX count (R5). -/
def Params.RCW (p : Params) : Nat := bitLength p.RX_CAP p.RX_CAP

/-- `TIW = max(1, ceil(log2(TX_CAP)))`, the width of the TX indices (R5). -/
def Params.TIW (p : Params) : Nat := max 1 (bitLength (p.TX_CAP - 1) (p.TX_CAP - 1))

/-- `TCW = ceil(log2(TX_CAP + 1))`, the width of the TX count (R5). -/
def Params.TCW (p : Params) : Nat := bitLength p.TX_CAP p.TX_CAP

/-- The two directions. `B` of 40_ringbuffer.md and `G` of 41_timing_engine.md range over them. -/
inductive Side where
  | rx
  | tx
deriving DecidableEq, Repr

/-! ## Free values (log entry 7)

"Slot indices are in `[0, CAP_B)`" (R8), yet every combination of values has a defined step (70_reset_and_hazards.md R181), and
before the first reset an index may hold any value of its width. What an access to a slot that does not exist reads, and where it
stores, the spec does not say. The second argument numbers the accesses of a side. -/

/-- The byte that a read of a slot that does not exist gives. DESIGN CHOICE: nothing is known of it. -/
opaque Config.strayByte : Side → Nat → Byte

/-- The slot, if it is one, that a write to a slot that does not exist stores to. DESIGN CHOICE: nothing is known of it. -/
opaque Config.straySlot : Side → Nat → Nat

end Sys2Proof
end

