-- ==== Sys2Proof/Syntax.lean ====
section
/-! DEFINITION. The syntax, whole: one constructor of `Instr` for every row of spec/opcode_table.json (nine host commands of
format CMD16, 30_encoding.md R61; nine internal events of format EVT8, 30_encoding.md R66), and the lines of a host program
in the assembler's syntax (30_encoding.md R67). -/

namespace Sys2Proof

/-- The states of the receive and transmit machines (10_state.md R13, R20). -/
inductive Fsm where
  | idle
  | start
  | bit
  | stop
deriving DecidableEq, Repr

/-- The instructions: what one sub-step of a cycle can run. -/
inductive Instr where
  /-- NOP 0x0000 (R131). -/
  | nop
  /-- INIT 0x1000 (R132). -/
  | init
  /-- GET_BYTE 0x2000 (R133). -/
  | getByte
  /-- RX_EMPTY 0x3000 (R134). -/
  | rxEmpty
  /-- TX_EMPTY 0x4000 (R135). -/
  | txEmpty
  /-- PUT_BYTE 0x50dd, with its operand `dd` (R136, R62). -/
  | putByte (d : Byte)
  /-- RX_FULL 0x6000 (R137). -/
  | rxFull
  /-- TX_FULL 0x7000 (R138). -/
  | txFull
  /-- STATUS 0x8000 (R139). -/
  | status
  /-- RX_EDGE 0x10 to 0x13, with the state `lbl[1:0]` of the receive machine (R101, R102, R66). -/
  | rxEdge (st : Fsm)
  /-- RX_TICK.IDLE 0x20 (R110). -/
  | rxTickIdle
  /-- RX_TICK.START 0x21 (R111). -/
  | rxTickStart
  /-- RX_TICK.BIT 0x22 (R112, R113). -/
  | rxTickBit
  /-- RX_TICK.STOP 0x23 (R114). -/
  | rxTickStop
  /-- TX_TICK.IDLE 0x30 (R121). -/
  | txTickIdle
  /-- TX_TICK.START 0x31 (R122). -/
  | txTickStart
  /-- TX_TICK.BIT 0x32 (R123). -/
  | txTickBit
  /-- TX_TICK.STOP 0x33 (R124). -/
  | txTickStop
deriving DecidableEq, Repr

/-- One line of a host program (30_encoding.md R67). -/
inductive Line where
  /-- A command written by its mnemonic and operand. -/
  | command (i : Instr)
  /-- A raw 16-bit word, as in program P4 of 95_test_vectors.md. -/
  | word (w : CmdWord)
  /-- `WAIT n`: n cycles with `cmd_valid = 0`. -/
  | wait (n : Nat)
  /-- `WRITE_BYTES b0, ..., bk-1` (R140). -/
  | writeBytes (bs : List Byte)
  /-- `TRY_GET`. -/
  | tryGet
  /-- `WAIT_RX`. -/
  | waitRx
  /-- `WAIT_TX_IDLE`. -/
  | waitTxIdle
deriving DecidableEq, Repr

/-- A host program: one line after another. -/
abbrev HostProgram := List Line

end Sys2Proof
end

