-- ==== Sys2Proof/WellFormed.lean ====
section
/-! DEFINITION. Well-formedness. Operand ranges of `Instr` are carried by its types (a byte, a machine state), so every
`Instr` is well-formed; what must be checked is the parameter set (00_scope.md R7), the words and the lines of a host program
(30_encoding.md R64, R66, R67). All checks are Booleans. -/

namespace Sys2Proof

/-- "The parameters must satisfy these constraints" (R7), with the capacity ranges of R4. -/
def Params.legal (p : Params) : Bool :=
  decide (2 ≤ p.P) && decide (1 ≤ p.RX_OFF) && decide (p.RX_OFF ≤ p.P - 1) && decide (1 ≤ p.TX_OFF)
    && decide (p.TX_OFF ≤ p.P) && decide (1 ≤ p.RX_CAP) && decide (1 ≤ p.TX_CAP)

/-- Which instructions the command port can carry: the nine rows of format CMD16. "Internal events are not commands and cannot
be issued on the command port" (R66). -/
def Instr.isCommand : Instr → Bool
  | .nop => true
  | .init => true
  | .getByte => true
  | .rxEmpty => true
  | .txEmpty => true
  | .putByte _ => true
  | .rxFull => true
  | .txFull => true
  | .status => true
  | .rxEdge _ => false
  | .rxTickIdle => false
  | .rxTickStart => false
  | .rxTickBit => false
  | .rxTickStop => false
  | .txTickIdle => false
  | .txTickStart => false
  | .txTickBit => false
  | .txTickStop => false

/-- The legal words, as R64 words it: `op` is not 0x9 to 0xF, `rsv` is 0, and `data` is 0x00 unless `op` is 0x5. -/
def CmdWord.legal (w : CmdWord) : Bool :=
  decide (w.extractLsb' 12 4 ≤ 0x8#4) && decide (w.extractLsb' 8 4 = 0x0#4)
    && (decide (w.extractLsb' 12 4 = 0x5#4) || decide (w.extractLsb' 0 8 = 0x00#8))

/-- A line is well-formed when it issues only commands the port can carry and only legal words: "A model should refuse a
program that issues an illegal word" (R64). -/
def Line.wellFormed : Line → Bool
  | .command i => i.isCommand
  | .word w => CmdWord.legal w
  | .wait _ => true
  | .writeBytes _ => true
  | .tryGet => true
  | .waitRx => true
  | .waitTxIdle => true

/-- Every line of the program is well-formed. -/
def HostProgram.wellFormed (p : HostProgram) : Bool := p.all Line.wellFormed

end Sys2Proof
end

