-- ==== Sys2Proof/Decode.lean ====
section
/-! DEFINITION. Decoding, total on every word of both formats and rejecting by name, and the encoder after it. The tables are
those of 30_encoding.md R61 (CMD16) and R66 (EVT8), row for row. -/

namespace Sys2Proof

/-- The 2-bit encoding of a machine state (10_state.md R13): IDLE 00, START 01, BIT 10, STOP 11. -/
def Fsm.code : Fsm → BitVec 2
  | .idle => 0b00#2
  | .start => 0b01#2
  | .bit => 0b10#2
  | .stop => 0b11#2

/-- The machine state of a 2-bit code (R13); every code names one. -/
def fsmOfCode (c : BitVec 2) : Fsm :=
  if c = 0b00#2 then .idle else if c = 0b01#2 then .start else if c = 0b10#2 then .bit else .stop

/-- `cmd[15:12]` (R60). -/
def opField (w : CmdWord) : BitVec 4 := w.extractLsb' 12 4

/-- `cmd[11:8]`, reserved (R60). -/
def rsvField (w : CmdWord) : BitVec 4 := w.extractLsb' 8 4

/-- `cmd[7:0]`: "the only operand", taken with no extension, scaling or shifting (R62). -/
def dataField (w : CmdWord) : Byte := w.extractLsb' 0 8

/-- Why a word names no instruction: the cases of R64, and the label space of R66. -/
inductive Illegal where
  /-- `op` is 0x9 to 0xF (R64). -/
  | reservedOp
  /-- `rsv` is not 0 (R64). -/
  | reservedField
  /-- `op` is not 0x5 and `data` is not 0x00 (R64). -/
  | strayData
  /-- "Labels outside this table name no event" (R66). -/
  | noSuchEvent
  /-- A word that is neither 16 nor 8 bits: "Every command is exactly 16 bits" (R60). -/
  | noSuchFormat
deriving DecidableEq, Repr

/-- A row of R61's table: the word matches when `(cmd & mask) = pat`. -/
structure CmdRow where
  pat : CmdWord
  mask : CmdWord
  make : Byte → Instr

/-- The opcode map of R61. -/
def cmdTable : List CmdRow :=
  [ ⟨0x0000#16, 0xFFFF#16, fun _ => .nop⟩,
    ⟨0x1000#16, 0xFFFF#16, fun _ => .init⟩,
    ⟨0x2000#16, 0xFFFF#16, fun _ => .getByte⟩,
    ⟨0x3000#16, 0xFFFF#16, fun _ => .rxEmpty⟩,
    ⟨0x4000#16, 0xFFFF#16, fun _ => .txEmpty⟩,
    ⟨0x5000#16, 0xFF00#16, fun d => .putByte d⟩,
    ⟨0x6000#16, 0xFFFF#16, fun _ => .rxFull⟩,
    ⟨0x7000#16, 0xFFFF#16, fun _ => .txFull⟩,
    ⟨0x8000#16, 0xFFFF#16, fun _ => .status⟩ ]

/-- The reason R64 gives for a word that matches no row. -/
def illegalReason (w : CmdWord) : Illegal :=
  if 0x8#4 < opField w then .reservedOp else if rsvField w = 0x0#4 then .strayData else .reservedField

/-- Decoding a command word (R63): the row with `(cmd & mask) = match`; a word that matches none is illegal (R64). -/
def decodeCmd (w : CmdWord) : Except Illegal Instr :=
  match cmdTable.find? (fun r => w &&& r.mask == r.pat) with
  | some r => .ok (r.make (dataField w))
  | none => .error (illegalReason w)

/-- A row of R66's label table, with the state field `lbl[1:0]` as operand. -/
structure EvtRow where
  pat : Label
  mask : Label
  make : Fsm → Instr

/-- The event labels of R66. -/
def evtTable : List EvtRow :=
  [ ⟨0x10#8, 0xFC#8, fun st => .rxEdge st⟩,
    ⟨0x20#8, 0xFF#8, fun _ => .rxTickIdle⟩,
    ⟨0x21#8, 0xFF#8, fun _ => .rxTickStart⟩,
    ⟨0x22#8, 0xFF#8, fun _ => .rxTickBit⟩,
    ⟨0x23#8, 0xFF#8, fun _ => .rxTickStop⟩,
    ⟨0x30#8, 0xFF#8, fun _ => .txTickIdle⟩,
    ⟨0x31#8, 0xFF#8, fun _ => .txTickStart⟩,
    ⟨0x32#8, 0xFF#8, fun _ => .txTickBit⟩,
    ⟨0x33#8, 0xFF#8, fun _ => .txTickStop⟩ ]

/-- The event a label names (R66). -/
def decodeEvt (l : Label) : Except Illegal Instr :=
  match evtTable.find? (fun r => l &&& r.mask == r.pat) with
  | some r => .ok (r.make (fsmOfCode (l.extractLsb' 0 2)))
  | none => .error .noSuchEvent

/-- An encoded instruction: a command word or an event label. -/
inductive Code where
  | cmd16 (w : CmdWord)
  | evt8 (l : Label)
deriving DecidableEq, Repr

/-- Decoding either format. -/
def decode : Code → Except Illegal Instr
  | .cmd16 w => decodeCmd w
  | .evt8 l => decodeEvt l

/-- An `EVT8` label: event in `lbl[7:4]`, `0b00` in `lbl[3:2]`, state in `lbl[1:0]` (R66). -/
def evtLabel (event : BitVec 4) (st : Fsm) : Label := (event ++ (0b00#2 ++ st.code) : BitVec 8)

/-- A `CMD16` word: `op`, `rsv = 0b0000`, `data` (R60). -/
def cmdWord (op : BitVec 4) (data : Byte) : CmdWord := (op ++ (0x0#4 ++ data) : BitVec 16)

/-- The word or label of an instruction, from the fields of R60, R61 and R66. -/
def encode : Instr → Code
  | .nop => .cmd16 (cmdWord 0x0#4 0x00#8)
  | .init => .cmd16 (cmdWord 0x1#4 0x00#8)
  | .getByte => .cmd16 (cmdWord 0x2#4 0x00#8)
  | .rxEmpty => .cmd16 (cmdWord 0x3#4 0x00#8)
  | .txEmpty => .cmd16 (cmdWord 0x4#4 0x00#8)
  | .putByte d => .cmd16 (cmdWord 0x5#4 d)
  | .rxFull => .cmd16 (cmdWord 0x6#4 0x00#8)
  | .txFull => .cmd16 (cmdWord 0x7#4 0x00#8)
  | .status => .cmd16 (cmdWord 0x8#4 0x00#8)
  | .rxEdge st => .evt8 (evtLabel 0x1#4 st)
  | .rxTickIdle => .evt8 (evtLabel 0x2#4 .idle)
  | .rxTickStart => .evt8 (evtLabel 0x2#4 .start)
  | .rxTickBit => .evt8 (evtLabel 0x2#4 .bit)
  | .rxTickStop => .evt8 (evtLabel 0x2#4 .stop)
  | .txTickIdle => .evt8 (evtLabel 0x3#4 .idle)
  | .txTickStart => .evt8 (evtLabel 0x3#4 .start)
  | .txTickBit => .evt8 (evtLabel 0x3#4 .bit)
  | .txTickStop => .evt8 (evtLabel 0x3#4 .stop)

/-- The format of a table row of `nbits` bits: CMD16 rows have 16, EVT8 rows 8 (log entry 11). -/
def codeOfTableWord (nbits w : Nat) : Except Illegal Code :=
  if nbits = 16 ∧ w < 2 ^ 16 then .ok (.cmd16 (BitVec.ofNat 16 w))
  else if nbits = 8 ∧ w < 2 ^ 8 then .ok (.evt8 (BitVec.ofNat 8 w))
  else .error .noSuchFormat

/-- The host's reading of a word of `nbits` bits: what the decoder answers, and `none` where it refuses. -/
def decodeTableWord (nbits w : Nat) : Option Instr :=
  match codeOfTableWord nbits w with
  | .ok c =>
    match decode c with
    | .ok i => some i
    | .error _ => none
  | .error _ => none

end Sys2Proof
end

