-- ==== Sys2Proof/Machine/State.lean ====
section
/-! DEFINITION. The state of the block as plain data: every element of 10_state.md, by the spec's names, with the parameters
and the levels on the input ports; its reset value (10_state.md R33); and the reasons a step can stop. -/

namespace Sys2Proof.Machine

/-- Why the machine stops with a fault: for no reason. "The block raises no exception, trap or fault for any serial-line or buffer
condition" (60_exceptions.md R160), and every combination of values has a defined step (70_reset_and_hazards.md R181). -/
inductive Fault where
deriving DecidableEq, Repr

/-- Why the machine gives no meaning. -/
inductive Refusal where
  /-- Raised by a dispatch arm that has no meaning yet. No arm is one. Safe. -/
  | notModelled (mnemonic : String)
  /-- Raised by every step under a parameter set outside the ranges of R7: "A model must refuse a parameter set outside these
  ranges". Safe (log entry 13). -/
  | badParameters
  /-- Raised by the host-program runner for a line that issues an internal event (R66) or an illegal word (R64), never by a
  step. Safe (log entry 15). -/
  | illFormedLine
deriving DecidableEq, Repr

/-- The storage of one ring buffer: the slots whose byte is not the unwritten one, as (slot, byte) pairs with the slots
strictly rising. -/
abbrev Memory := List Host.Cell

/-- A ring buffer (10_state.md R24). -/
structure Ring where
  /-- The storage `RXB` or `TXB`. -/
  mem : Memory
  /-- The "next write slot". -/
  head : Nat
  /-- The "next read slot". -/
  tail : Nat
  /-- The number of "occupied slots". -/
  count : Nat
  /-- The model's own: how many accesses of this buffer named a slot that does not exist. It numbers the free values of
  Config.lean and nothing else reads it (log entry 7). -/
  stray : Nat
deriving DecidableEq, Repr

/-- A timing generator (10_state.md R18, R19). -/
structure Gen where
  /-- `g_act`, the generator's `isActive()`. -/
  act : Bool
  /-- `g_cnt`, "the number of cycles left until its next firing". -/
  cnt : Nat
deriving DecidableEq, Repr

/-- The levels on the input ports in one cycle (10_state.md R10; R152: a single value per cycle). -/
structure Input where
  rst : Bool
  rx_i : Bool
  cmd_valid : Bool
  cmd : CmdWord
deriving DecidableEq, Repr

/-- Nothing drives the ports: no reset, no command, and the line at its pulled-up level (92_eei_decisions.md D2). -/
def Input.idle : Input := { rst := false, rx_i := true, cmd_valid := false, cmd := 0x0000#16 }

/-- The state of the block. -/
structure State where
  /-- The implementation parameters (R4); no step changes them. -/
  par : Params
  /-- R13. -/
  rx_state : Fsm
  /-- R14. -/
  rx_idx : BitIdx
  /-- R15. -/
  rx_shift : Byte
  /-- R16: 1 is listening. -/
  edge_en : Bool
  /-- R17: the level of `rx_i` in the previous cycle. -/
  rx_prev : Bool
  /-- R18: `rxg_act` and `rxg_cnt`. -/
  rxg : Gen
  /-- R20. -/
  tx_state : Fsm
  /-- R21. -/
  tx_idx : BitIdx
  /-- R22. -/
  tx_shift : Byte
  /-- R23: the register that drives the port `tx_o`. -/
  tx_o : Bool
  /-- R19: `txg_act` and `txg_cnt`. -/
  txg : Gen
  /-- R24: `RXB`, `rxb_head`, `rxb_tail`, `rxb_count`. -/
  rxb : Ring
  /-- R24: `TXB`, `txb_head`, `txb_tail`, `txb_count`. -/
  txb : Ring
  /-- R26. -/
  rsp_valid : Bool
  /-- R26. -/
  rsp_data : Byte
  /-- R26. -/
  rsp_flag : Bool
  /-- R26. -/
  rsp_ill : Bool
  /-- The input levels of this cycle (the head) and of the cycles after it; past its end the ports are idle (log entry 2). -/
  inputs : List Input
deriving DecidableEq, Repr

/-- An empty ring buffer with nothing listed in its storage. -/
def Ring.empty : Ring := { mem := [], head := 0, tail := 0, count := 0, stray := 0 }

/-- A generator that is not armed. -/
def Gen.off : Gen := { act := false, cnt := 0 }

/-- The state right after a reset cycle (R33) of a block with parameters `p`, with nothing yet on the input ports. The storage
is the model's choice (log entry 5), and so is the number of the next free value (log entry 7). -/
def State.resetOf (p : Params) : State :=
  { par := p
    rx_state := .idle
    rx_idx := 0#3
    rx_shift := 0x00#8
    edge_en := true
    rx_prev := true
    rxg := Gen.off
    tx_state := .idle
    tx_idx := 0#3
    tx_shift := 0x00#8
    tx_o := true
    txg := Gen.off
    rxb := Ring.empty
    txb := Ring.empty
    rsp_valid := false
    rsp_data := 0x00#8
    rsp_flag := false
    rsp_ill := false
    inputs := [] }

/-- The machine right after reset, with the parameter set of log entry 1. -/
def State.reset : State := State.resetOf Params.ofReset

end Sys2Proof.Machine
end

