-- ==== Sys2Proof/Machine/Ops.lean ====
section
/-! DEFINITION. The operations every rule is written with: MemRead and MemWrite (00_scope.md R8), RB_PUT and RB_GET
(40_ringbuffer.md R80, R81), ARM, TIMER_STEP and DISARM (41_timing_engine.md R90, R91, R93), a command's response
(10_state.md R26), the writes of INIT and reset (45_facade.md R132, 70_reset_and_hazards.md R180), and taking the one
exception, IllegalCommand (60_exceptions.md R161). -/

namespace Sys2Proof.Machine

/-- Run `f` on the next state of `o`; a stop stays a stop. -/
def andThen (o : Host.Outcome State Fault Refusal) (f : State → Host.Outcome State Fault Refusal) :
    Host.Outcome State Fault Refusal :=
  match o with
  | .next s => f s
  | .fault r => .fault r
  | .refused r => .refused r

/-! ## Storage -/

/-- What a slot that is not listed holds. DESIGN CHOICE (log entry 5): the spec leaves storage after reset unspecified. -/
def unwrittenByte : Byte := 0x00#8

/-- The byte in a slot. -/
def Memory.read : Memory → Nat → Byte
  | [], _ => unwrittenByte
  | (k, x) :: m, i => if i = k then x else Memory.read m i

/-- Set the byte in a slot, keeping the canonical form: slots strictly rising, no entry that equals the unwritten byte. -/
def Memory.write : Memory → Nat → Byte → Memory
  | [], i, v => if v = unwrittenByte then [] else [(i, v)]
  | (k, x) :: m, i, v =>
    if i < k then (if v = unwrittenByte then (k, x) :: m else (i, v) :: (k, x) :: m)
    else if i = k then (if v = unwrittenByte then m else (i, v) :: m)
    else (k, x) :: Memory.write m i v

/-- The canonical form: every slot is above `lo`, strictly rising, and no entry equals the unwritten byte. -/
def Memory.wfAbove : Option Nat → Memory → Bool
  | _, [] => true
  | lo, (k, x) :: m =>
    (match lo with
      | none => true
      | some l => decide (l < k)) && decide (x ≠ unwrittenByte) && Memory.wfAbove (some k) m

/-- The canonical form of a storage array. -/
def Memory.wf (m : Memory) : Bool := Memory.wfAbove none m

/-- `MemRead(B, i)` on the buffer of side `b`, of capacity `cap` (R8, R40): the byte in slot `i`, and a free value where there is
no such slot (log entry 7). -/
def memRead (b : Side) (cap i : Nat) (r : Ring) : Byte :=
  if i < cap then Memory.read r.mem i else Config.strayByte b r.stray

/-- The slot that `MemWrite(B, i, _)` stores to: slot `i`, and a free one where there is no such slot (log entry 7). -/
def slotStored (b : Side) (cap i : Nat) (r : Ring) : Nat :=
  if i < cap then i else Config.straySlot b r.stray

/-- `MemWrite(B, i, v)` on the buffer of side `b`, of capacity `cap` (R8, R40). Nothing is stored where `slotStored` is no slot. -/
def memWrite (b : Side) (cap i : Nat) (v : Byte) (r : Ring) : Memory :=
  if slotStored b cap i r < cap then Memory.write r.mem (slotStored b cap i r) v else r.mem

/-- The number of the next free value, after an access to slot `i`. -/
def nextStray (cap i : Nat) (r : Ring) : Nat := if i < cap then r.stray else r.stray + 1

/-! ## Ring buffers -/

/-- `(x + 1) mod N` (R85). -/
def nextSlot (cap x : Nat) : Nat := (x + 1) % cap

/-- `RB_PUT` on the buffer of side `b` (R80): drop-newest when full. -/
def Ring.put (b : Side) (cap : Nat) (v : Byte) (r : Ring) : Ring :=
  if r.count < cap then
    { mem := memWrite b cap r.head v r, head := nextSlot cap r.head, tail := r.tail, count := r.count + 1,
      stray := nextStray cap r.head r }
  else r

/-- `RB_GET` on the buffer of side `b` (R81): the byte, whether one was dequeued, and the buffer after. -/
def Ring.get (b : Side) (cap : Nat) (emptyValue : Byte) (r : Ring) : (Byte × Bool) × Ring :=
  if 0 < r.count then
    ((memRead b cap r.tail r, true),
      { r with tail := nextSlot cap r.tail, count := r.count - 1, stray := nextStray cap r.tail r })
  else ((emptyValue, false), r)

/-- The buffer of a side. -/
def State.ring (b : Side) (s : State) : Ring :=
  match b with
  | .rx => s.rxb
  | .tx => s.txb

/-- Replace the buffer of a side. -/
def State.setRing (b : Side) (r : Ring) (s : State) : State :=
  match b with
  | .rx => { s with rxb := r }
  | .tx => { s with txb := r }

/-- `CAP_B` (R4). -/
def State.cap (b : Side) (s : State) : Nat :=
  match b with
  | .rx => s.par.RX_CAP
  | .tx => s.par.TX_CAP

/-- `RB_PUT(B, v)` (R80). -/
def State.rbPut (b : Side) (v : Byte) (s : State) : State := s.setRing b (Ring.put b (s.cap b) v (s.ring b))

/-- `RB_GET(B)` (R81). -/
def State.rbGet (b : Side) (s : State) : (Byte × Bool) × State :=
  match Ring.get b (s.cap b) s.par.EMPTY_VALUE (s.ring b) with
  | (vo, r) => (vo, s.setRing b r)

/-! ## Timing generators -/

/-- The generator of a side. -/
def State.gen (b : Side) (s : State) : Gen :=
  match b with
  | .rx => s.rxg
  | .tx => s.txg

/-- Replace the generator of a side. -/
def State.setGen (b : Side) (g : Gen) (s : State) : State :=
  match b with
  | .rx => { s with rxg := g }
  | .tx => { s with txg := g }

/-- `ARM(G, off)` (R90). -/
def State.arm (b : Side) (off : Nat) (s : State) : State := s.setGen b { act := true, cnt := off }

/-- `DISARM(G)` (R93). -/
def State.disarm (b : Side) (s : State) : State := s.setGen b Gen.off

/-- `x - 1` in `w` bits, wrapping at 0 (log entry 8). -/
def decInWidth (w x : Nat) : Nat := (x + (2 ^ w - 1)) % 2 ^ w

/-- `TIMER_STEP(G)` (R91): the state after the count, and whether the generator fires. The reload to `P` is before the handler
runs. -/
def State.timerStep (b : Side) (s : State) : State × Bool :=
  if (s.gen b).act then
    if (s.gen b).cnt = 1 then (s.setGen b { act := true, cnt := s.par.P }, true)
    else (s.setGen b { act := true, cnt := decInWidth s.par.CW (s.gen b).cnt }, false)
  else (s, false)

/-! ## Responses, the exception, INIT and reset -/

/-- A legal command's response (R26); "a legal command writes `rsp_ill <- 0`" (R130). -/
def State.respond (data : Byte) (flag : Bool) (s : State) : State :=
  { s with rsp_data := data, rsp_flag := flag, rsp_ill := false }

/-- Taking the exception: `raise IllegalCommand(cmd)` (R161). It saves no cause, no copy of the word and no state, and moves to
no handler; "the next legal command clears `rsp_ill`" is the return from it. -/
def State.raiseIllegalCommand (s : State) : State :=
  { s with rsp_data := 0x00#8, rsp_flag := false, rsp_ill := true }

/-- A ring buffer emptied: "storage is not written" (R132). -/
def Ring.emptied (r : Ring) : Ring := { r with head := 0, tail := 0, count := 0 }

/-- The writes INIT and reset share (R132, R180). -/
def State.initBlock (s : State) : State :=
  { s with
    rx_state := .idle, rx_idx := 0#3, rx_shift := 0x00#8, edge_en := true, rxg := Gen.off,
    tx_state := .idle, tx_idx := 0#3, tx_shift := 0x00#8, tx_o := true, txg := Gen.off,
    rxb := s.rxb.emptied, txb := s.txb.emptied }

/-- The writes of a reset cycle (R180): every write of INIT, `rx_prev <- 1` and the response registers cleared. The storage
keeps its bytes (V-RST-1; log entry 6). -/
def State.resetBlock (s : State) : State :=
  { s.initBlock with
    rx_prev := true, rsp_valid := false, rsp_data := 0x00#8, rsp_flag := false, rsp_ill := false }

end Sys2Proof.Machine
end

