-- ==== Sys2Proof/Machine/Operands.lean ====
section
/-! DEFINITION. The operands a rule can have: the input levels of the current cycle (10_state.md R10, 46_cycle_step.md R152),
the sampled line level (43_rx_sampler.md R117), and one bit of a shift register (10_state.md R15, R22). The byte of PUT_BYTE is
`dataField` of Decode.lean; the state of an event label is the argument of its constructor. -/

namespace Sys2Proof.Machine

/-- The levels on the input ports in this cycle. -/
def State.input (s : State) : Input := s.inputs.headD Input.idle

/-- The levels on the input ports `k` cycles from now. -/
def State.inputAt (s : State) (k : Nat) : Input := s.inputs.getD k Input.idle

/-- The level of `rx_i` in this cycle, the same for every sub-step (R117, R152). -/
def State.rx_i (s : State) : Bool := s.input.rx_i

/-- `v[i] <- b`, for a register `v` of 8 bits: the other bits are kept (R112). -/
def setBit (v : Byte) (i : BitIdx) (b : Bool) : Byte :=
  if b then v ||| (0x01#8 <<< i.toNat) else v &&& ~~~(0x01#8 <<< i.toNat)

/-- `v[i]` (R8, R123). -/
def getBit (v : Byte) (i : BitIdx) : Bool := v.getLsbD i.toNat

end Sys2Proof.Machine
end

