-- ==== Sys2Proof/Machine/Flags.lean ====
section
/-! DEFINITION. The Boolean conditions computed from the state when read: "The block has no stored flag or condition-code
register" (10_state.md R29). The status view (R30) and the output ports (46_cycle_step.md R156). -/

namespace Sys2Proof.Machine

/-- `RB_EMPTY(B) = (count = 0)` (R82). -/
def State.rbEmpty (b : Side) (s : State) : Bool := (s.ring b).count == 0

/-- `RB_FULL(B) = (count = CAP_B)` (R83). -/
def State.rbFull (b : Side) (s : State) : Bool := (s.ring b).count == s.cap b

/-- `ACTIVE(G) = g_act` (R94). -/
def State.active (b : Side) (s : State) : Bool := (s.gen b).act

/-- `FALL = (rx_prev = 1) and (rx_i = 0)` (R100). -/
def State.fall (s : State) : Bool := s.rx_prev && !s.rx_i

/-- STATUS (R30, R139): `{0, edge_en, rxg_act, txg_act, TXF, TXE, RXF, RXE}`, the first in the high bit. -/
def State.statusByte (s : State) : Byte :=
  BitVec.ofBool false ++ BitVec.ofBool s.edge_en ++ BitVec.ofBool (s.active .rx) ++ BitVec.ofBool (s.active .tx)
    ++ BitVec.ofBool (s.rbFull .tx) ++ BitVec.ofBool (s.rbEmpty .tx) ++ BitVec.ofBool (s.rbFull .rx)
    ++ BitVec.ofBool (s.rbEmpty .rx)

/-- The output ports of R10: "All outputs are registers". -/
structure Outputs where
  tx_o : Bool
  rsp_valid : Bool
  rsp_data : Byte
  rsp_flag : Bool
  rsp_ill : Bool
deriving DecidableEq, Repr

/-- The port values of a cycle, read from the state the cycle before left (R156). -/
def State.outputs (s : State) : Outputs :=
  { tx_o := s.tx_o, rsp_valid := s.rsp_valid, rsp_data := s.rsp_data, rsp_flag := s.rsp_flag, rsp_ill := s.rsp_ill }

end Sys2Proof.Machine
end

