-- ==== Sys2Proof/Machine/EdgeMonitor.lean ====
section
/-! DEFINITION. The edge monitor (42_edge_monitor.md R101, R102). -/

namespace Sys2Proof.Machine

/-- RX_EDGE with label state `st` (R101). It acts only as label 0x10 (R66), on a falling edge while listening and idle; every
other edge has no effect (R102). In a cycle `st` is always `rx_state` (log entry 9). -/
def execRxEdge (st : Fsm) (s : State) : Host.Outcome State Fault Refusal :=
  if st = .idle ∧ s.fall = true ∧ s.edge_en = true ∧ s.rx_state = .idle then
    .next { (s.arm .rx s.par.RX_OFF) with rx_state := .start, edge_en := false }
  else .next s

end Sys2Proof.Machine
end

