-- ==== Sys2Proof/Machine/Facade.lean ====
section
/-! DEFINITION. The nine host commands (45_facade.md R131 to R139). Each runs in the host sub-step of a cycle and completes
within it (R130); `rsp_valid` is written by sub-step 5 (46_cycle_step.md R150), not here. -/

namespace Sys2Proof.Machine

/-- NOP (R131). -/
def execNop (s : State) : Host.Outcome State Fault Refusal := .next (s.respond 0x00#8 false)

/-- INIT (R132). -/
def execInit (s : State) : Host.Outcome State Fault Refusal := .next (s.initBlock.respond 0x00#8 false)

/-- GET_BYTE (R133). -/
def execGetByte (s : State) : Host.Outcome State Fault Refusal :=
  match s.rbGet .rx with
  | ((v, ok), t) => .next (t.respond v ok)

/-- RX_EMPTY (R134). -/
def execRxEmpty (s : State) : Host.Outcome State Fault Refusal := .next (s.respond 0x00#8 (s.rbEmpty .rx))

/-- TX_EMPTY (R135). -/
def execTxEmpty (s : State) : Host.Outcome State Fault Refusal := .next (s.respond 0x00#8 (s.rbEmpty .tx))

/-- PUT_BYTE d (R136): the push comes before the arm; a drop is not signalled. -/
def execPutByte (d : Byte) (s : State) : Host.Outcome State Fault Refusal :=
  let t := s.rbPut .tx d
  .next ((if t.active .tx then t else t.arm .tx t.par.TX_OFF).respond 0x00#8 false)

/-- RX_FULL (R137). -/
def execRxFull (s : State) : Host.Outcome State Fault Refusal := .next (s.respond 0x00#8 (s.rbFull .rx))

/-- TX_FULL (R138). -/
def execTxFull (s : State) : Host.Outcome State Fault Refusal := .next (s.respond 0x00#8 (s.rbFull .tx))

/-- STATUS (R139). -/
def execStatus (s : State) : Host.Outcome State Fault Refusal := .next (s.respond s.statusByte false)

end Sys2Proof.Machine
end

