-- ==== Sys2Proof/Machine/RxSampler.lean ====
section
/-! DEFINITION. The receive bit sampler's tick handlers (43_rx_sampler.md R110 to R114). No framing check, no false-start
check and no abort (R115, R116). -/

namespace Sys2Proof.Machine

/-- RX_TICK.IDLE (R110): "no state changes". -/
def execRxTickIdle (s : State) : Host.Outcome State Fault Refusal := .next s

/-- RX_TICK.START (R111): the line is not read. -/
def execRxTickStart (s : State) : Host.Outcome State Fault Refusal :=
  .next { s with rx_idx := 0#3, rx_shift := 0x00#8, rx_state := .bit }

/-- `complete()` (R113): push the byte, then go to STOP, whether or not the push was dropped. -/
def completeFrame (s : State) : State := { s.rbPut .rx s.rx_shift with rx_state := .stop }

/-- Set bit `rx_idx` of the shift register from the line and count the bit (R112). -/
def State.sampleBit (s : State) : State :=
  { s with rx_shift := setBit s.rx_shift s.rx_idx s.rx_i, rx_idx := s.rx_idx + 1#3 }

/-- RX_TICK.BIT (R112). -/
def execRxTickBit (s : State) : Host.Outcome State Fault Refusal :=
  .next (if s.rx_idx = 7#3 then completeFrame s.sampleBit else s.sampleBit)

/-- RX_TICK.STOP (R114): the line is not read. -/
def execRxTickStop (s : State) : Host.Outcome State Fault Refusal :=
  .next { (s.disarm .rx) with edge_en := true, rx_state := .idle }

end Sys2Proof.Machine
end

