-- ==== Sys2Proof/Machine/TxDriver.lean ====
section
/-! DEFINITION. The transmit bit driver's tick handlers (44_tx_driver.md R121 to R124). -/

namespace Sys2Proof.Machine

/-- TX_TICK.IDLE (R121): the line is not driven. -/
def execTxTickIdle (s : State) : Host.Outcome State Fault Refusal := .next { s with tx_state := .start }

/-- TX_TICK.START (R122). On an empty buffer it sends EMPTY_VALUE, as RB_GET gives it (log entry 4). -/
def execTxTickStart (s : State) : Host.Outcome State Fault Refusal :=
  match s.rbGet .tx with
  | ((v, _), t) => .next { t with tx_o := false, tx_shift := v, tx_idx := 0#3, tx_state := .bit }

/-- TX_TICK.BIT (R123). -/
def execTxTickBit (s : State) : Host.Outcome State Fault Refusal :=
  .next { s with
    tx_o := getBit s.tx_shift s.tx_idx, tx_idx := s.tx_idx + 1#3,
    tx_state := if s.tx_idx = 7#3 then .stop else s.tx_state }

/-- TX_TICK.STOP (R124). -/
def execTxTickStop (s : State) : Host.Outcome State Fault Refusal :=
  if s.rbEmpty .tx then .next { (s.disarm .tx) with tx_o := true, tx_state := .idle }
  else .next { s with tx_o := true, tx_state := .start }

end Sys2Proof.Machine
end

