-- ==== Sys2Proof/Machine/Dispatch.lean ====
section
/-! DEFINITION. One arm per instruction, each one direct call of its meaning. -/

namespace Sys2Proof.Machine

def exec (i : Instr) (s : State) : Host.Outcome State Fault Refusal :=
  match i with
  | .nop => Sys2Proof.Machine.execNop s
  | .init => Sys2Proof.Machine.execInit s
  | .getByte => Sys2Proof.Machine.execGetByte s
  | .rxEmpty => Sys2Proof.Machine.execRxEmpty s
  | .txEmpty => Sys2Proof.Machine.execTxEmpty s
  | .putByte d => Sys2Proof.Machine.execPutByte d s
  | .rxFull => Sys2Proof.Machine.execRxFull s
  | .txFull => Sys2Proof.Machine.execTxFull s
  | .status => Sys2Proof.Machine.execStatus s
  | .rxEdge st => Sys2Proof.Machine.execRxEdge st s
  | .rxTickIdle => Sys2Proof.Machine.execRxTickIdle s
  | .rxTickStart => Sys2Proof.Machine.execRxTickStart s
  | .rxTickBit => Sys2Proof.Machine.execRxTickBit s
  | .rxTickStop => Sys2Proof.Machine.execRxTickStop s
  | .txTickIdle => Sys2Proof.Machine.execTxTickIdle s
  | .txTickStart => Sys2Proof.Machine.execTxTickStart s
  | .txTickBit => Sys2Proof.Machine.execTxTickBit s
  | .txTickStop => Sys2Proof.Machine.execTxTickStop s

end Sys2Proof.Machine
end

