-- ==== Sys2Proof/Machine/Cycle.lean ====
section
/-! DEFINITION. The sub-steps of one clock cycle and their fixed order (46_cycle_step.md R150), the reset cycle (R151), and the
placing of an instruction for the next cycle to run. Every event and every command runs through `exec`. -/

namespace Sys2Proof.Machine

/-- The RX_TICK that a fire of the RX generator runs, chosen by `rx_state` (R92). -/
def rxTickOf : Fsm → Instr
  | .idle => .rxTickIdle
  | .start => .rxTickStart
  | .bit => .rxTickBit
  | .stop => .rxTickStop

/-- The TX_TICK that a fire of the TX generator runs, chosen by `tx_state` (R92). -/
def txTickOf : Fsm → Instr
  | .idle => .txTickIdle
  | .start => .txTickStart
  | .bit => .txTickBit
  | .stop => .txTickStop

/-- Sub-step 1: `TIMER_STEP(RX)` and, if it fires, RX_TICK (R150, R91, R92). -/
def rxSubstep (s : State) : Host.Outcome State Fault Refusal :=
  match s.timerStep .rx with
  | (t, true) => exec (rxTickOf t.rx_state) t
  | (t, false) => .next t

/-- `rx_prev <- rx_i`, "the last action of the edge sub-step" (R104). -/
def State.noteLevel (s : State) : State := { s with rx_prev := s.rx_i }

/-- Sub-step 2: RX_EDGE on a falling edge, with the label of the current `rx_state` (R66), then the `rx_prev` update. An edge
that R101 does not take is offered too and has no effect (R102). -/
def edgeSubstep (s : State) : Host.Outcome State Fault Refusal :=
  andThen (if s.fall then exec (.rxEdge s.rx_state) s else .next s) fun t => .next t.noteLevel

/-- Sub-step 3: `TIMER_STEP(TX)` and, if it fires, TX_TICK (R150, R91, R92). -/
def txSubstep (s : State) : Host.Outcome State Fault Refusal :=
  match s.timerStep .tx with
  | (t, true) => exec (txTickOf t.tx_state) t
  | (t, false) => .next t

/-- Sub-step 4: the host command, if one is presented (R150, R63, R65); an illegal word raises IllegalCommand (R161). -/
def hostSubstep (s : State) : Host.Outcome State Fault Refusal :=
  if s.input.cmd_valid then
    match decodeCmd s.input.cmd with
    | .ok i => exec i s
    | .error _ => .next s.raiseIllegalCommand
  else .next s

/-- Sub-step 5: `rsp_valid <- cmd_valid` (R150); the ports then show the next cycle's levels. -/
def State.endCycle (s : State) : State := { s with rsp_valid := s.input.cmd_valid, inputs := s.inputs.tail }

/-- Sub-steps 1 to 3: the tick side of a cycle. -/
def tickSide (s : State) : Host.Outcome State Fault Refusal :=
  andThen (andThen (rxSubstep s) edgeSubstep) txSubstep

/-- A cycle with `rst = 0` (R150). -/
def runCycle (s : State) : Host.Outcome State Fault Refusal :=
  andThen (andThen (tickSide s) hostSubstep) fun t => .next t.endCycle

/-- A cycle with `rst = 1`: "performs only the reset" (R151). -/
def resetCycle (s : State) : State := { s.resetBlock with inputs := s.inputs.tail }

/-- One clock cycle. A parameter set outside its ranges is refused (R7). -/
def clockCycle (s : State) : Host.Outcome State Fault Refusal :=
  if s.par.legal then
    if s.input.rst then .next (resetCycle s) else runCycle s
  else .refused .badParameters

/-! ## Placing an instruction (log entry 12) -/

/-- Replace this cycle's input levels. -/
def State.withInput (x : Input) (s : State) : State := { s with inputs := x :: s.inputs.tail }

/-- Present a word on the command port in this cycle (R60): `cmd_valid = 1`, `rst = 0`, the line as it is. -/
def State.presentCommand (w : CmdWord) (s : State) : State :=
  s.withInput { rst := false, rx_i := s.rx_i, cmd_valid := true, cmd := w }

/-- Leave the command port idle in this cycle, with the line at `level`. -/
def State.presentLevel (level : Bool) (s : State) : State :=
  s.withInput { rst := false, rx_i := level, cmd_valid := false, cmd := 0x0000#16 }

/-- Make the RX generator fire in this cycle in state `st`, with no edge and no command beside it. -/
def State.placeRxTick (st : Fsm) (s : State) : State :=
  { s.presentLevel s.rx_i with
    rx_state := st, rxg := { act := true, cnt := 1 }, edge_en := decide (st = .idle), rx_prev := s.rx_i }

/-- Make the TX generator fire in this cycle in state `st`, with no command beside it. -/
def State.placeTxTick (st : Fsm) (s : State) : State :=
  { s.presentLevel s.rx_i with tx_state := st, txg := { act := true, cnt := 1 } }

/-- Make a falling edge in this cycle in state `st`, with no RX tick and no command beside it. -/
def State.placeRxEdge (st : Fsm) (s : State) : State :=
  { s.presentLevel false with
    rx_state := st, rx_prev := true, edge_en := decide (st = .idle),
    rxg := if st = .idle then Gen.off else { act := true, cnt := s.par.P } }

/-- Set what it takes for the next cycle to run the event `i`; a command is placed by its word, not here. -/
def State.placeEvent (i : Instr) (s : State) : State :=
  match i with
  | .rxEdge st => s.placeRxEdge st
  | .rxTickIdle => s.placeRxTick .idle
  | .rxTickStart => s.placeRxTick .start
  | .rxTickBit => s.placeRxTick .bit
  | .rxTickStop => s.placeRxTick .stop
  | .txTickIdle => s.placeTxTick .idle
  | .txTickStart => s.placeTxTick .start
  | .txTickBit => s.placeTxTick .bit
  | .txTickStop => s.placeTxTick .stop
  | .nop => s
  | .init => s
  | .getByte => s
  | .rxEmpty => s
  | .txEmpty => s
  | .putByte _ => s
  | .rxFull => s
  | .txFull => s
  | .status => s

/-- Place a table word of `nbits` bits for the next cycle: a CMD16 word on the command port, an EVT8 label by the event it
names; a label that names no event, and a word of no format, change nothing. -/
def State.placeWord (s : State) (nbits w : Nat) : State :=
  match codeOfTableWord nbits w with
  | .ok (.cmd16 c) => s.presentCommand c
  | .ok (.evt8 l) =>
    match decodeEvt l with
    | .ok i => s.placeEvent i
    | .error _ => s
  | .error _ => s

end Sys2Proof.Machine
end

