-- ==== Sys2Proof/Machine/Step.lean ====
section
/-! DEFINITION. The machine's step: one clock cycle (00_scope.md R3: "One step of the model is one clock cycle"), and the
placing of an instruction for it. The block fetches nothing (10_state.md R12): its commands come from the port and its events
from the cycle. -/

namespace Sys2Proof.Machine

/-- One step: one clock cycle, on the input levels at the head of `inputs`. -/
def step (s : State) : Host.Outcome State Fault Refusal := clockCycle s

/-- `s` with a table word of `nbits` bits placed so that the next step runs exactly it. -/
def State.withFetchWord (s : State) (nbits w : Nat) : State := s.placeWord nbits w

end Sys2Proof.Machine
end

