-- ==== Sys2Proof/Machine/HostProgram.lean ====
section
/-! DEFINITION. A host program (30_encoding.md R67) driven on the command port, one command a cycle, with the line levels and
`rst` of `inputs`; and the loopback line of 95_test_vectors.md. The polling loops WAIT_RX and WAIT_TX_IDLE have no bound in the
spec; here each has fuel (log entry 15) and polls in every cycle (log entry 19). -/

namespace Sys2Proof.Machine

/-- Set this cycle's command port, leaving its `rst` and `rx_i` as they are. -/
def State.drivePort (valid : Bool) (w : CmdWord) (s : State) : State :=
  s.withInput { s.input with cmd_valid := valid, cmd := w }

/-- The loopback line: `rx_i` in this cycle equals the `tx_o` port (95_test_vectors.md `LOOP`). -/
def State.loopBack (s : State) : State := s.withInput { s.input with rx_i := s.tx_o }

/-- One cycle that issues the word `w`. -/
def issueWord (w : CmdWord) (s : State) : Host.Outcome State Fault Refusal := step (s.drivePort true w)

/-- One cycle that issues a command; an internal event is no command (R66). -/
def issue (i : Instr) (s : State) : Host.Outcome State Fault Refusal :=
  match encode i with
  | .cmd16 w => issueWord w s
  | .evt8 _ => .refused .illFormedLine

/-- `WAIT n`: `n` cycles with `cmd_valid = 0` (R67). -/
def waitCycles : Nat → State → Host.Outcome State Fault Refusal
  | 0, s => .next s
  | n + 1, s => andThen (step (s.drivePort false 0x0000#16)) (waitCycles n)

/-- `WRITE_BYTES` (R67, R140): "exactly that of its `k` PUT_BYTE commands, one per cycle". -/
def writeBytes : List Byte → State → Host.Outcome State Fault Refusal
  | [], s => .next s
  | b :: bs, s => andThen (issue (.putByte b) s) (writeBytes bs)

/-- Issue `i` in consecutive cycles until `done` holds of the response, at most `fuel` times: the state reached and whether `done`
was seen. R67 does not say how far apart a loop's polls are, nor when the program goes on after the last. DESIGN CHOICE (log entry
19): one poll in every cycle, the response judged as it stands on the ports after the poll's cycle, and no cycle between the poll that
ends the loop and the next line. -/
def pollUntil (i : Instr) (done : State → Bool) : Nat → State → Host.Outcome (State × Bool) Fault Refusal
  | 0, s => .next (s, false)
  | fuel + 1, s =>
    match issue i s with
    | .next t => if done t then .next (t, true) else pollUntil i done fuel t
    | .fault r => .fault r
    | .refused r => .refused r

/-- A line that does not poll always completes. -/
def completes (o : Host.Outcome State Fault Refusal) : Host.Outcome (State × Bool) Fault Refusal :=
  match o with
  | .next s => .next (s, true)
  | .fault r => .fault r
  | .refused r => .refused r

/-- One line of a host program, by R67; whether it completed within `fuel` polls. An ill-formed line is refused (R64, R66). A poll in
a cycle with `rst = 1` runs no command and has no response (`rsp_valid = 0`); what a loop makes of it the spec does not say. DESIGN
CHOICE (log entry 18): the loop goes on. -/
def runLine (fuel : Nat) (l : Line) (s : State) : Host.Outcome (State × Bool) Fault Refusal :=
  if l.wellFormed then
    match l with
    | .command i => completes (issue i s)
    | .word w => completes (issueWord w s)
    | .wait n => completes (waitCycles n s)
    | .writeBytes bs => completes (writeBytes bs s)
    | .tryGet => completes (issue .getByte s)
    | .waitRx => pollUntil .rxEmpty (fun t => t.rsp_valid && !t.rsp_flag) fuel s
    | .waitTxIdle => pollUntil .status (fun t => t.rsp_valid && !t.rsp_data.getLsbD 4) fuel s
  else .refused .illFormedLine

/-- A host program, line by line; it stops at a line that did not complete. R67 writes a cycle without a command as `WAIT`. DEDUCED
(log entry 20): no such cycle stands between two lines. -/
def runLines (fuel : Nat) : HostProgram → State → Host.Outcome (State × Bool) Fault Refusal
  | [], s => .next (s, true)
  | l :: ls, s =>
    match runLine fuel l s with
    | .next (t, true) => runLines fuel ls t
    | .next (t, false) => .next (t, false)
    | .fault r => .fault r
    | .refused r => .refused r

end Sys2Proof.Machine
end

