-- ==== Sys2Proof/Safety.lean ====
section
/-! DEFINITION. The terms claims are stated in: the invariants of 10_state.md R27 and R28, runs of many cycles, what the inputs
of a run may hold, the contents of a ring buffer, and what one side of the block can see. -/

namespace Sys2Proof.Machine

/-! ## Invariants -/

/-- The ring-buffer invariants of R27: "`0 ≤ count ≤ N`", "indices always in `[0, N)`", and
"`head = (tail + count) mod N`". -/
structure Ring.Wf (cap : Nat) (r : Ring) : Prop where
  count_le : r.count ≤ cap
  head_lt : r.head < cap
  tail_lt : r.tail < cap
  head_eq : r.head = (r.tail + r.count) % cap

/-- The invariants (a) to (f) of R28, which hold "in every state reachable from reset". -/
structure State.R28 (s : State) : Prop where
  /-- (a) -/
  listening : s.edge_en = true ↔ s.rx_state = .idle
  /-- (b) -/
  rx_busy : s.rxg.act = true ↔ s.rx_state ≠ .idle
  /-- (c) -/
  tx_off : s.txg.act = false → s.tx_state = .idle ∧ s.txb.count = 0
  /-- (d) -/
  tx_start : s.tx_state = .start → 1 ≤ s.txb.count
  /-- (e) -/
  tx_first : s.tx_state = .idle → s.txg.act = true → 1 ≤ s.txb.count
  /-- (f), RX. -/
  rx_cnt : s.rxg.act = true → 1 ≤ s.rxg.cnt ∧ s.rxg.cnt ≤ s.par.P
  /-- (f), TX. -/
  tx_cnt : s.txg.act = true → 1 ≤ s.txg.cnt ∧ s.txg.cnt ≤ s.par.P

/-- The invariant every step keeps: a legal parameter set (R7), R27 for both buffers, R28, storage in canonical form, and the
line high while the transmitter is in IDLE or START (R121: "`tx_o` keeps its value, which is 1 in every reachable state
here"). -/
structure State.Inv (s : State) : Prop where
  legal : s.par.legal = true
  rx_ring : s.rxb.Wf s.par.RX_CAP
  tx_ring : s.txb.Wf s.par.TX_CAP
  rx_mem : s.rxb.mem.wf = true
  tx_mem : s.txb.mem.wf = true
  r28 : s.R28
  line_high : s.tx_state = .idle ∨ s.tx_state = .start → s.tx_o = true

/-- The reset values of R33, for every element but the storage, which R33 leaves unspecified. -/
structure State.AtReset (s : State) : Prop where
  rx_state : s.rx_state = .idle
  rx_idx : s.rx_idx = 0#3
  rx_shift : s.rx_shift = 0x00#8
  edge_en : s.edge_en = true
  rx_prev : s.rx_prev = true
  rxg : s.rxg.act = false ∧ s.rxg.cnt = 0
  tx_state : s.tx_state = .idle
  tx_idx : s.tx_idx = 0#3
  tx_shift : s.tx_shift = 0x00#8
  tx_o : s.tx_o = true
  txg : s.txg.act = false ∧ s.txg.cnt = 0
  rxb : s.rxb.head = 0 ∧ s.rxb.tail = 0 ∧ s.rxb.count = 0
  txb : s.txb.head = 0 ∧ s.txb.tail = 0 ∧ s.txb.count = 0
  rsp_valid : s.rsp_valid = false
  rsp_data : s.rsp_data = 0x00#8
  rsp_flag : s.rsp_flag = false
  rsp_ill : s.rsp_ill = false

/-! ## Runs -/

/-- The state after `n` cycles. -/
def cycles (n : Nat) (s : State) : Host.Outcome State Fault Refusal := Host.Core.run Sys2Proof.core n s

/-- The state after `n` cycles with the line looped back: in each, `rx_i` is the `tx_o` port (95_test_vectors.md `LOOP`). -/
def loopCycles : Nat → State → Host.Outcome State Fault Refusal
  | 0, s => .next s
  | n + 1, s => andThen (step s.loopBack) (loopCycles n)

/-- In none of the next `n` cycles is there a reset, or a command word for which `bad` holds. -/
def State.without (s : State) (bad : CmdWord → Bool) (n : Nat) : Prop :=
  ∀ k, k < n → (s.inputAt k).rst = false ∧ ((s.inputAt k).cmd_valid = true → bad (s.inputAt k).cmd = false)

/-- The word of INIT (R61). -/
def isInit (w : CmdWord) : Bool := w == 0x1000#16

/-- The words of INIT and GET_BYTE (R61). -/
def isInitOrGet (w : CmdWord) : Bool := w == 0x1000#16 || w == 0x2000#16

/-- The words of INIT and PUT_BYTE (R61). -/
def isInitOrPut (w : CmdWord) : Bool := w == 0x1000#16 || w &&& 0xFF00#16 == 0x5000#16

/-- A cycle with `rst = 0` in which the host presents the word `w`, under legal parameters. -/
def State.issues (s : State) (w : CmdWord) : Prop :=
  s.par.legal = true ∧ s.input.rst = false ∧ s.input.cmd_valid = true ∧ s.input.cmd = w

/-! ## Ring buffers as queues -/

/-- The occupied slots' bytes, oldest first. -/
def Ring.contents (cap : Nat) (r : Ring) : List Byte :=
  (List.range r.count).map fun j => Memory.read r.mem ((r.tail + j) % cap)

/-- Puts in list order. -/
def Ring.putAll (b : Side) (cap : Nat) : List Byte → Ring → Ring
  | [], r => r
  | v :: vs, r => Ring.putAll b cap vs (Ring.put b cap v r)

/-- `n` gets, and what each returned. -/
def Ring.getAll (b : Side) (cap : Nat) (emptyValue : Byte) : Nat → Ring → List (Byte × Bool) × Ring
  | 0, r => ([], r)
  | n + 1, r =>
    match Ring.get b cap emptyValue r with
    | (v, q) =>
      match Ring.getAll b cap emptyValue n q with
      | (vs, z) => (v :: vs, z)

/-! ## What one side can see -/

/-- The transmit side of the block: everything the TX generator and the TX state machine read or write (R170). -/
structure TxView where
  par : Params
  tx_state : Fsm
  tx_idx : BitIdx
  tx_shift : Byte
  tx_o : Bool
  txg : Gen
  txb : Ring
deriving DecidableEq, Repr

/-- The transmit side of a state. -/
def State.txView (s : State) : TxView :=
  { par := s.par, tx_state := s.tx_state, tx_idx := s.tx_idx, tx_shift := s.tx_shift, tx_o := s.tx_o, txg := s.txg,
    txb := s.txb }

/-- The receive side of the block: the RX generator, the edge monitor and the RX state machine (R170). -/
structure RxView where
  par : Params
  rx_state : Fsm
  rx_idx : BitIdx
  rx_shift : Byte
  edge_en : Bool
  rx_prev : Bool
  rxg : Gen
  rxb : Ring
deriving DecidableEq, Repr

/-- The receive side of a state. -/
def State.rxView (s : State) : RxView :=
  { par := s.par, rx_state := s.rx_state, rx_idx := s.rx_idx, rx_shift := s.rx_shift, edge_en := s.edge_en,
    rx_prev := s.rx_prev, rxg := s.rxg, rxb := s.rxb }

/-- Two buffers that agree on everything but the slots outside the occupied range (R32). -/
structure Ring.Agree (cap : Nat) (r q : Ring) : Prop where
  head : r.head = q.head
  tail : r.tail = q.tail
  count : r.count = q.count
  stray : r.stray = q.stray
  slots : ∀ j, j < r.count → Memory.read r.mem ((r.tail + j) % cap) = Memory.read q.mem ((q.tail + j) % cap)

/-- Two states that agree on everything but the storage slots outside the occupied ranges. -/
structure State.Agree (s t : State) : Prop where
  rest : { s with rxb := t.rxb, txb := t.txb } = t
  rxb : Ring.Agree s.par.RX_CAP s.rxb t.rxb
  txb : Ring.Agree s.par.TX_CAP s.txb t.txb

end Sys2Proof.Machine
end

