-- ==== Sys2Proof/Certificates/Slice0/Obligations.lean ====
section
/-! DEFINITION. The statements for the provers, from the numbered rules of spec/. Parameters are fields of the state, so a
statement about every state is one about every parameter set (00_scope.md R6). -/

open Sys2Proof Sys2Proof.Machine

/-! ## Parameters, reset and the outputs -/

/-- R33, with R180: every element but the storage (which R33 leaves unspecified) has its reset value, for every parameter set. -/
def Obligations.ResetHoldsTheStatedValues : Prop :=
  (∀ p : Params, (State.resetOf p).AtReset ∧ (State.resetOf p).par = p) ∧ State.reset.AtReset

/-- R180 and R151: a cycle with `rst = 1` performs only the reset, whatever the other inputs are. That the inputs are a list of which
a cycle consumes one entry (`t.inputs = s.inputs.tail`) is no rule of the spec but the model's choice (log entry 2). -/
def Obligations.ResetCycleOnlyResets : Prop :=
  (∀ s : State, s.par.legal = true → s.input.rst = true →
    ∃ t, step s = .next t ∧ t.AtReset ∧ t.par = s.par ∧ t.inputs = s.inputs.tail) ∧
  (∀ (s : State) (x y : Input) (xs : List Input), x.rst = true → y.rst = true →
    step { s with inputs := x :: xs } = step { s with inputs := y :: xs })

/-- R7, with the capacity ranges of R4's table: exactly the parameter sets outside their ranges are refused. That the refusal is one
of every step, and that nothing else is refused, is the model's choice (log entry 13). -/
def Obligations.BadParametersAreRefused : Prop :=
  ∀ (s : State) (r : Refusal), step s = .refused r ↔
    r = .badParameters ∧
    ¬(2 ≤ s.par.P ∧ 1 ≤ s.par.RX_OFF ∧ s.par.RX_OFF ≤ s.par.P - 1 ∧ 1 ≤ s.par.TX_OFF ∧ s.par.TX_OFF ≤ s.par.P ∧
      1 ≤ s.par.RX_CAP ∧ 1 ≤ s.par.TX_CAP)

/-- R4: "None can be changed while the block runs". -/
def Obligations.ParametersNeverChange : Prop :=
  ∀ (n : Nat) (s t : State), cycles n s = .next t → t.par = s.par

/-- R156: the outputs are the registers' values, and "no output depends combinationally on an input". -/
def Obligations.OutputsAreRegisters : Prop :=
  ∀ (s : State) (xs : List Input),
    s.outputs.tx_o = s.tx_o ∧ s.outputs.rsp_valid = s.rsp_valid ∧ s.outputs.rsp_data = s.rsp_data ∧
    s.outputs.rsp_flag = s.rsp_flag ∧ s.outputs.rsp_ill = s.rsp_ill ∧ ({ s with inputs := xs } : State).outputs = s.outputs

/-! ## Decoding -/

/-- R61 and R66: words written out from the tables decode to what they stand for, and near misses do not decode. -/
def Obligations.TableWordsDecode : Prop :=
  decode (.cmd16 0b0000000000000000#16) = .ok .nop ∧ decode (.cmd16 0b0010000000000000#16) = .ok .getByte ∧
  decode (.cmd16 0b0101000010100101#16) = .ok (.putByte 0xA5#8) ∧ decode (.cmd16 0b1000000000000000#16) = .ok .status ∧
  decode (.evt8 0b00010010#8) = .ok (.rxEdge .bit) ∧ decode (.evt8 0b00100010#8) = .ok .rxTickBit ∧
  decode (.evt8 0b00110011#8) = .ok .txTickStop ∧
  decode (.cmd16 0b1001000000000000#16) = .error .reservedOp ∧ decode (.cmd16 0b0101000100000000#16) = .error .reservedField ∧
  decode (.cmd16 0b0010000010000000#16) = .error .strayData ∧ decode (.evt8 0b00100100#8) = .error .noSuchEvent

/-- R63: a word decodes to the row it matches, and at most one row can match. -/
def Obligations.OneRowMatches : Prop :=
  (∀ (w : CmdWord) (i : Instr),
    decodeCmd w = .ok i ↔ ∃ r ∈ cmdTable, w &&& r.mask = r.pat ∧ i = r.make (dataField w)) ∧
  cmdTable.Pairwise fun a b => ∀ w : CmdWord, ¬(w &&& a.mask = a.pat ∧ w &&& b.mask = b.pat)

/-- Every instruction's code decodes to it, and every code that decodes is the code of what it decodes to. -/
def Obligations.DecodeAndEncodeAgree : Prop :=
  (∀ i : Instr, decode (encode i) = .ok i) ∧ ∀ (c : Code) (i : Instr), decode c = .ok i → encode i = c

/-- R64 and R161: which words are illegal, what an illegal word does, that the next legal command clears `rsp_ill`, and that a
host program that comes to an illegal word is refused there. -/
def Obligations.IllegalWordsOnlyAnswer : Prop :=
  (∀ w : CmdWord, (∃ e, decodeCmd w = .error e) ↔
    0x9#4 ≤ opField w ∨ rsvField w ≠ 0x0#4 ∨ (opField w ≠ 0x5#4 ∧ dataField w ≠ 0x00#8)) ∧
  (∀ (s : State) (e : Illegal), s.input.cmd_valid = true → decodeCmd s.input.cmd = .error e →
    hostSubstep s = .next { s with rsp_data := 0x00#8, rsp_flag := false, rsp_ill := true }) ∧
  (∀ (i : Instr) (s t : State), i.isCommand = true → exec i s = .next t → t.rsp_ill = false) ∧
  (∀ (w : CmdWord) (e : Illegal) (fuel : Nat) (before after : HostProgram) (s t : State), decodeCmd w = .error e →
    runLines fuel before s = .next (t, true) →
    runLines fuel (before ++ .word w :: after) s = .refused .illFormedLine)

/-- R66: the command port carries no internal event. -/
def Obligations.PortCarriesNoEvent : Prop :=
  ∀ (w : CmdWord) (i : Instr), decodeCmd w = .ok i → i.isCommand = true

/-! ## The cycle -/

/-- R150: a cycle with `rst = 0` is the five sub-steps in order; the host sub-step runs the decoded instruction. That every falling
edge runs RX_EDGE, with the label of `rx_state`, is the model's choice (log entry 10; an edge that R150 does not take has no
effect), and so is the list of inputs that a cycle consumes one entry of (log entry 2). -/
def Obligations.StepRunsTheDecodedInstruction : Prop :=
  (∀ s : State, s.par.legal = true → s.input.rst = false →
    step s = andThen (andThen (andThen (andThen (rxSubstep s) edgeSubstep) txSubstep) hostSubstep)
      fun t => .next { t with rsp_valid := t.input.cmd_valid, inputs := t.inputs.tail }) ∧
  (∀ (s : State) (i : Instr), s.input.cmd_valid = true → decodeCmd s.input.cmd = .ok i → hostSubstep s = exec i s) ∧
  (∀ s : State, s.input.cmd_valid = false → hostSubstep s = .next s) ∧
  (∀ s : State, s.fall = true → edgeSubstep s =
    andThen (exec (.rxEdge s.rx_state) s) fun t => .next { t with rx_prev := t.input.rx_i }) ∧
  (∀ s : State, s.fall = false → edgeSubstep s = .next { s with rx_prev := s.input.rx_i })

/-- A step on a placed command word is that command, run after the tick side and before the end of the cycle. -/
def Obligations.StepOnAPlacedWord : Prop :=
  ∀ (s t : State) (w : CmdWord) (i : Instr), s.par.legal = true → decodeCmd w = .ok i →
    tickSide (s.withFetchWord 16 w.toNat) = .next t →
    step (s.withFetchWord 16 w.toNat) = andThen (exec i t) fun u => .next u.endCycle

/-- R91 and R92 for both generators: an inactive one does nothing, count 1 reloads `P` and runs the handler its machine's state
chooses, and any greater count of its `CW` bits goes down by one. -/
def Obligations.TimersCountAndFire : Prop :=
  (∀ s : State, s.rxg.act = false → rxSubstep s = .next s) ∧
  (∀ s : State, s.rxg.act = true → s.rxg.cnt = 1 →
    rxSubstep s = exec (match s.rx_state with
      | .idle => .rxTickIdle
      | .start => .rxTickStart
      | .bit => .rxTickBit
      | .stop => .rxTickStop) { s with rxg := { act := true, cnt := s.par.P } }) ∧
  (∀ s : State, s.rxg.act = true → 2 ≤ s.rxg.cnt → s.rxg.cnt < 2 ^ s.par.CW →
    rxSubstep s = .next { s with rxg := { act := true, cnt := s.rxg.cnt - 1 } }) ∧
  (∀ s : State, s.txg.act = false → txSubstep s = .next s) ∧
  (∀ s : State, s.txg.act = true → s.txg.cnt = 1 →
    txSubstep s = exec (match s.tx_state with
      | .idle => .txTickIdle
      | .start => .txTickStart
      | .bit => .txTickBit
      | .stop => .txTickStop) { s with txg := { act := true, cnt := s.par.P } }) ∧
  (∀ s : State, s.txg.act = true → 2 ≤ s.txg.cnt → s.txg.cnt < 2 ^ s.par.CW →
    txSubstep s = .next { s with txg := { act := true, cnt := s.txg.cnt - 1 } })

/-- R90 and R93: what ARM and DISARM write, on either side. -/
def Obligations.ArmAndDisarm : Prop :=
  ∀ (s : State) (off : Nat),
    s.arm .rx off = { s with rxg := { act := true, cnt := off } } ∧
    s.arm .tx off = { s with txg := { act := true, cnt := off } } ∧
    s.disarm .rx = { s with rxg := { act := false, cnt := 0 } } ∧
    s.disarm .tx = { s with txg := { act := false, cnt := 0 } }

/-! ## Ring buffers -/

/-- R80: `RB_PUT` writes the head slot and advances, or drops the new value silently. -/
def Obligations.PutAppendsOrDrops : Prop :=
  (∀ (b : Side) (cap : Nat) (v : Byte) (r : Ring), r.count < cap → r.head < cap →
    Ring.put b cap v r =
      { r with mem := Memory.write r.mem r.head v, head := (r.head + 1) % cap, count := r.count + 1 }) ∧
  (∀ (b : Side) (cap : Nat) (v : Byte) (r : Ring), cap ≤ r.count → Ring.put b cap v r = r) ∧
  (∀ (b : Side) (cap : Nat) (v : Byte) (r : Ring) (j : Nat), r.mem.wf = true → r.head < cap →
    Memory.read (Ring.put b cap v r).mem j = if r.count < cap ∧ j = r.head then v else Memory.read r.mem j)

/-- R81: `RB_GET` takes the byte at the tail and advances, or returns EMPTY_VALUE and changes nothing. -/
def Obligations.GetTakesTheOldest : Prop :=
  (∀ (b : Side) (cap : Nat) (e : Byte) (r : Ring), 0 < r.count → r.tail < cap →
    Ring.get b cap e r =
      ((Memory.read r.mem r.tail, true), { r with tail := (r.tail + 1) % cap, count := r.count - 1 })) ∧
  (∀ (b : Side) (cap : Nat) (e : Byte) (r : Ring), r.count = 0 → Ring.get b cap e r = ((e, false), r))

/-- R86, the FIFO law: after `k` puts, the gets return the bytes held before, oldest first, then the new ones, as many as fit;
the excess, the newest, are dropped. -/
def Obligations.BuffersAreFifos : Prop :=
  ∀ (b : Side) (cap : Nat) (e : Byte) (r : Ring) (vs : List Byte), r.Wf cap → r.mem.wf = true →
    ∃ q z, Ring.putAll b cap vs r = q ∧ q.count = min cap (r.count + vs.length) ∧
      Ring.getAll b cap e q.count q = (((r.contents cap ++ vs).take cap).map fun v => (v, true), z) ∧ z.count = 0

/-- R181 where an index names a slot that does not exist, as it may before the first reset: each access runs with every effect its
rule gives it. The byte read and the slot stored to are free values, of which nothing is known (the model's choice, log entry 7). -/
def Obligations.AccessOutsideStorageRuns : Prop :=
  (∀ s : State, 0 < s.rxb.count → s.par.RX_CAP ≤ s.rxb.tail →
    exec .getByte s = .next { s with
      rxb := { s.rxb with tail := (s.rxb.tail + 1) % s.par.RX_CAP, count := s.rxb.count - 1, stray := s.rxb.stray + 1 },
      rsp_data := Config.strayByte .rx s.rxb.stray, rsp_flag := true, rsp_ill := false }) ∧
  (∀ s : State, 0 < s.txb.count → s.par.TX_CAP ≤ s.txb.tail →
    exec .txTickStart s = .next { s with
      tx_o := false, tx_shift := Config.strayByte .tx s.txb.stray, tx_idx := 0#3, tx_state := .bit,
      txb := { s.txb with
        tail := (s.txb.tail + 1) % s.par.TX_CAP, count := s.txb.count - 1, stray := s.txb.stray + 1 } }) ∧
  (∀ (s : State) (d : Byte), s.txb.count < s.par.TX_CAP → s.par.TX_CAP ≤ s.txb.head → ∃ m,
    exec (.putByte d) s = .next { s with
      txb := { mem := m, head := (s.txb.head + 1) % s.par.TX_CAP, tail := s.txb.tail, count := s.txb.count + 1,
               stray := s.txb.stray + 1 },
      txg := if s.txg.act then s.txg else { act := true, cnt := s.par.TX_OFF },
      rsp_data := 0x00#8, rsp_flag := false, rsp_ill := false } ∧
    (s.txb.mem.wf = true → ∀ j, Memory.read m j =
      if Config.straySlot .tx s.txb.stray < s.par.TX_CAP ∧ j = Config.straySlot .tx s.txb.stray then d
      else Memory.read s.txb.mem j)) ∧
  (∀ s : State, s.rx_idx = 7#3 → s.rxb.count < s.par.RX_CAP → s.par.RX_CAP ≤ s.rxb.head → ∃ v m,
    (∀ j, j < 8 → v.getLsbD j = if j = 7 then s.input.rx_i else s.rx_shift.getLsbD j) ∧
    exec .rxTickBit s = .next { s with
      rx_shift := v, rx_idx := 0#3, rx_state := .stop,
      rxb := { mem := m, head := (s.rxb.head + 1) % s.par.RX_CAP, tail := s.rxb.tail, count := s.rxb.count + 1,
               stray := s.rxb.stray + 1 } } ∧
    (s.rxb.mem.wf = true → ∀ j, Memory.read m j =
      if Config.straySlot .rx s.rxb.stray < s.par.RX_CAP ∧ j = Config.straySlot .rx s.rxb.stray then v
      else Memory.read s.rxb.mem j))

/-! ## The host commands -/

/-- R131. -/
def Obligations.NopOnlyAnswers : Prop :=
  decodeCmd 0x0000#16 = .ok .nop ∧
  (∀ s : State, exec .nop s = .next { s with rsp_data := 0x00#8, rsp_flag := false, rsp_ill := false }) ∧
  (∀ s t : State, s.issues 0x0000#16 → step s = .next t →
    t.rsp_valid = true ∧ t.rsp_data = 0x00#8 ∧ t.rsp_flag = false ∧ t.rsp_ill = false)

/-- R132: INIT's writes, what it leaves, and that in its cycle it comes after the tick side. -/
def Obligations.InitReinitialises : Prop :=
  decodeCmd 0x1000#16 = .ok .init ∧
  (∀ s : State, exec .init s = .next { s with
    rx_state := .idle, rx_idx := 0#3, rx_shift := 0x00#8, edge_en := true, rxg := { act := false, cnt := 0 },
    tx_state := .idle, tx_idx := 0#3, tx_shift := 0x00#8, tx_o := true, txg := { act := false, cnt := 0 },
    rxb := { s.rxb with head := 0, tail := 0, count := 0 }, txb := { s.txb with head := 0, tail := 0, count := 0 },
    rsp_data := 0x00#8, rsp_flag := false, rsp_ill := false }) ∧
  (∀ s t : State, s.issues 0x1000#16 → step s = .next t →
    t.rx_state = .idle ∧ t.edge_en = true ∧ t.rxg.act = false ∧ t.tx_state = .idle ∧ t.tx_o = true ∧ t.txg.act = false ∧
    t.rxb.count = 0 ∧ t.txb.count = 0 ∧ t.rx_prev = s.input.rx_i)

/-- R133: GET_BYTE on an empty buffer and on one that holds a byte; in a cycle it sees what the tick side left. -/
def Obligations.GetByteAnswersTheOldestByte : Prop :=
  decodeCmd 0x2000#16 = .ok .getByte ∧
  (∀ s : State, s.rxb.count = 0 →
    exec .getByte s = .next { s with rsp_data := s.par.EMPTY_VALUE, rsp_flag := false, rsp_ill := false }) ∧
  (∀ s : State, 0 < s.rxb.count → s.rxb.tail < s.par.RX_CAP →
    exec .getByte s = .next { s with
      rxb := { s.rxb with tail := (s.rxb.tail + 1) % s.par.RX_CAP, count := s.rxb.count - 1 },
      rsp_data := Memory.read s.rxb.mem s.rxb.tail, rsp_flag := true, rsp_ill := false }) ∧
  (∀ s t : State, s.issues 0x2000#16 → step s = .next t →
    ∃ c u, tickSide s = .next c ∧ exec .getByte c = .next u ∧ t.rxb = u.rxb ∧ t.rsp_data = u.rsp_data ∧
      t.rsp_flag = u.rsp_flag ∧ t.rsp_ill = false ∧ t.rsp_valid = true)

/-- R134, R135, R137, R138: the four queries write the response registers and nothing else. -/
def Obligations.QueriesAnswerTheCounts : Prop :=
  decodeCmd 0x3000#16 = .ok .rxEmpty ∧ decodeCmd 0x4000#16 = .ok .txEmpty ∧ decodeCmd 0x6000#16 = .ok .rxFull ∧
  decodeCmd 0x7000#16 = .ok .txFull ∧
  ∀ s : State,
    exec .rxEmpty s = .next { s with rsp_data := 0x00#8, rsp_flag := decide (s.rxb.count = 0), rsp_ill := false } ∧
    exec .txEmpty s = .next { s with rsp_data := 0x00#8, rsp_flag := decide (s.txb.count = 0), rsp_ill := false } ∧
    exec .rxFull s =
      .next { s with rsp_data := 0x00#8, rsp_flag := decide (s.rxb.count = s.par.RX_CAP), rsp_ill := false } ∧
    exec .txFull s =
      .next { s with rsp_data := 0x00#8, rsp_flag := decide (s.txb.count = s.par.TX_CAP), rsp_ill := false }

/-- R136: PUT_BYTE pushes (or drops) its byte, arms an inactive generator, signals nothing, and stores to the head slot alone. -/
def Obligations.PutBytePushesAndArms : Prop :=
  (∀ d : Byte, decodeCmd (0x50#8 ++ d) = .ok (.putByte d)) ∧
  (∀ (d : Byte) (s : State), (s.txb.count < s.par.TX_CAP → s.txb.head < s.par.TX_CAP) →
    exec (.putByte d) s = .next { s with
      txb := if s.txb.count < s.par.TX_CAP then
          { s.txb with
            mem := Memory.write s.txb.mem s.txb.head d, head := (s.txb.head + 1) % s.par.TX_CAP, count := s.txb.count + 1 }
        else s.txb,
      txg := if s.txg.act then s.txg else { act := true, cnt := s.par.TX_OFF },
      rsp_data := 0x00#8, rsp_flag := false, rsp_ill := false }) ∧
  (∀ (d : Byte) (s t : State) (j : Nat), s.txb.mem.wf = true → s.txb.head < s.par.TX_CAP → exec (.putByte d) s = .next t →
    Memory.read t.rxb.mem j = Memory.read s.rxb.mem j ∧
    Memory.read t.txb.mem j =
      if s.txb.count < s.par.TX_CAP ∧ j = s.txb.head then d else Memory.read s.txb.mem j)

/-- R139 with the layout of R30: every bit of the answer, the frame, and the reset value 0x45. -/
def Obligations.StatusShowsTheStatusView : Prop :=
  decodeCmd 0x8000#16 = .ok .status ∧
  (∀ s : State, ∃ v : Byte,
    exec .status s = .next { s with rsp_data := v, rsp_flag := false, rsp_ill := false } ∧
    v.getLsbD 0 = decide (s.rxb.count = 0) ∧ v.getLsbD 1 = decide (s.rxb.count = s.par.RX_CAP) ∧
    v.getLsbD 2 = decide (s.txb.count = 0) ∧ v.getLsbD 3 = decide (s.txb.count = s.par.TX_CAP) ∧
    v.getLsbD 4 = s.txg.act ∧ v.getLsbD 5 = s.rxg.act ∧ v.getLsbD 6 = s.edge_en ∧ v.getLsbD 7 = false) ∧
  (∀ p : Params, p.legal = true → ∃ t, exec .status (State.resetOf p) = .next t ∧ t.rsp_data = 0x45#8)

/-! ## The edge monitor and the bit sampler -/

/-- R100, R101, R102: the edge condition, what a taken edge writes, and that every other edge has no effect. That a label other than
0x10 has none, whatever `rx_state` is, is the model's choice (log entry 9). -/
def Obligations.EdgeStartsAFrameOnlyWhenListening : Prop :=
  (∀ s : State, s.fall = true ↔ s.rx_prev = true ∧ s.input.rx_i = false) ∧
  (∀ s : State, s.fall = true → s.edge_en = true → s.rx_state = .idle →
    exec (.rxEdge .idle) s =
      .next { s with rx_state := .start, rxg := { act := true, cnt := s.par.RX_OFF }, edge_en := false }) ∧
  (∀ (s : State) (st : Fsm), st ≠ .idle ∨ s.fall = false ∨ s.edge_en = false ∨ s.rx_state ≠ .idle →
    exec (.rxEdge st) s = .next s)

/-- R110 and R111. -/
def Obligations.RxStartTickClears : Prop :=
  (∀ s : State, exec .rxTickIdle s = .next s) ∧
  (∀ s : State, exec .rxTickStart s = .next { s with rx_idx := 0#3, rx_shift := 0x00#8, rx_state := .bit })

/-- R112 and R113: a BIT tick sets bit `rx_idx` from the line and no other bit; the eighth also pushes the byte (or drops it on a
full buffer) and goes to STOP; and nothing but the head slot is stored to. -/
def Obligations.RxBitTickSamplesOneBit : Prop :=
  (∀ s : State, ∃ v : Byte, (∀ j, j < 8 → v.getLsbD j = if j = s.rx_idx.toNat then s.input.rx_i else s.rx_shift.getLsbD j) ∧
    (s.rx_idx ≠ 7#3 → exec .rxTickBit s = .next { s with rx_shift := v, rx_idx := s.rx_idx + 1#3 }) ∧
    (s.rx_idx = 7#3 → (s.rxb.count < s.par.RX_CAP → s.rxb.head < s.par.RX_CAP) →
      exec .rxTickBit s = .next { s with
        rx_shift := v, rx_idx := 0#3, rx_state := .stop,
        rxb := if s.rxb.count < s.par.RX_CAP then
            { s.rxb with
              mem := Memory.write s.rxb.mem s.rxb.head v, head := (s.rxb.head + 1) % s.par.RX_CAP, count := s.rxb.count + 1 }
          else s.rxb })) ∧
  (∀ (s t : State) (j : Nat), s.rxb.mem.wf = true → s.rxb.head < s.par.RX_CAP → exec .rxTickBit s = .next t →
    Memory.read t.txb.mem j = Memory.read s.txb.mem j ∧
    Memory.read t.rxb.mem j =
      if s.rx_idx = 7#3 ∧ s.rxb.count < s.par.RX_CAP ∧ j = s.rxb.head then t.rx_shift else Memory.read s.rxb.mem j)

/-- R114. -/
def Obligations.RxStopTickReenables : Prop :=
  ∀ s : State, exec .rxTickStop s =
    .next { s with rxg := { act := false, cnt := 0 }, edge_en := true, rx_state := .idle }

/-! ## The bit driver -/

/-- R121 and R122. -/
def Obligations.TxStartTickPopsAByte : Prop :=
  (∀ s : State, exec .txTickIdle s = .next { s with tx_state := .start }) ∧
  (∀ s : State, 0 < s.txb.count → s.txb.tail < s.par.TX_CAP →
    exec .txTickStart s = .next { s with
      tx_o := false, tx_shift := Memory.read s.txb.mem s.txb.tail, tx_idx := 0#3, tx_state := .bit,
      txb := { s.txb with tail := (s.txb.tail + 1) % s.par.TX_CAP, count := s.txb.count - 1 } }) ∧
  (∀ s : State, s.txb.count = 0 →
    exec .txTickStart s =
      .next { s with tx_o := false, tx_shift := s.par.EMPTY_VALUE, tx_idx := 0#3, tx_state := .bit })

/-- R123. -/
def Obligations.TxBitTickDrivesOneBit : Prop :=
  ∀ s : State, exec .txTickBit s = .next { s with
    tx_o := s.tx_shift.getLsbD s.tx_idx.toNat, tx_idx := s.tx_idx + 1#3,
    tx_state := if s.tx_idx = 7#3 then .stop else s.tx_state }

/-- R124. -/
def Obligations.TxStopTickLoopsOrDisarms : Prop :=
  (∀ s : State, s.txb.count ≠ 0 → exec .txTickStop s = .next { s with tx_o := true, tx_state := .start }) ∧
  (∀ s : State, s.txb.count = 0 →
    exec .txTickStop s = .next { s with tx_o := true, txg := { act := false, cnt := 0 }, tx_state := .idle })

/-! ## Who writes what -/

/-- R103: "The only writers of `edge_en`", and the value each writes. -/
def Obligations.EdgeEnableWriters : Prop :=
  (∀ (i : Instr) (s t : State), exec i s = .next t → t.edge_en ≠ s.edge_en →
    (i = .rxEdge .idle ∧ t.edge_en = false) ∨ (i = .rxTickStop ∧ t.edge_en = true) ∨ (i = .init ∧ t.edge_en = true)) ∧
  (∀ s t : State, exec .rxTickStop s = .next t ∨ exec .init s = .next t → t.edge_en = true) ∧
  (∀ s t : State, step s = .next t → s.input.rst = true → t.edge_en = true)

/-- R13 and R20: the encoding of the machine states and their only writers. -/
def Obligations.MachineStateWriters : Prop :=
  (Fsm.idle.code = 0b00#2 ∧ Fsm.start.code = 0b01#2 ∧ Fsm.bit.code = 0b10#2 ∧ Fsm.stop.code = 0b11#2) ∧
  ∀ (i : Instr) (s t : State), exec i s = .next t →
    (t.rx_state ≠ s.rx_state →
      i = .rxEdge .idle ∨ i = .rxTickStart ∨ i = .rxTickBit ∨ i = .rxTickStop ∨ i = .init) ∧
    (t.tx_state ≠ s.tx_state →
      i = .txTickIdle ∨ i = .txTickStart ∨ i = .txTickBit ∨ i = .txTickStop ∨ i = .init)

/-- R23 and R125: "`tx_o` holds its value in every cycle with no TX Start, Bit or Stop tick and no INIT or reset". -/
def Obligations.LineHeldBetweenTicks : Prop :=
  (∀ (i : Instr) (s t : State), exec i s = .next t → t.tx_o ≠ s.tx_o →
    i = .txTickStart ∨ i = .txTickBit ∨ i = .txTickStop ∨ i = .init) ∧
  (∀ s t : State, step s = .next t → s.input.rst = false → ¬s.issues 0x1000#16 →
    ¬(s.txg.act = true ∧ s.txg.cnt = 1 ∧ s.tx_state ≠ .idle) → t.tx_o = s.tx_o)

/-- R25: each buffer has one producer, which never takes, and one consumer, which never stores; only they and INIT write it. -/
def Obligations.OneProducerOneConsumer : Prop :=
  ∀ (i : Instr) (s t : State), exec i s = .next t →
    (t.rxb ≠ s.rxb → i = .rxTickBit ∨ i = .getByte ∨ i = .init) ∧
    (t.txb ≠ s.txb → (∃ d, i = .putByte d) ∨ i = .txTickStart ∨ i = .init) ∧
    (i = .rxTickBit → t.rxb.tail = s.rxb.tail ∧ s.rxb.count ≤ t.rxb.count) ∧
    (i = .getByte → t.rxb.head = s.rxb.head ∧ t.rxb.mem = s.rxb.mem ∧ t.rxb.count ≤ s.rxb.count) ∧
    (∀ d, i = .putByte d → t.txb.tail = s.txb.tail ∧ s.txb.count ≤ t.txb.count) ∧
    (i = .txTickStart → t.txb.head = s.txb.head ∧ t.txb.mem = s.txb.mem ∧ t.txb.count ≤ s.txb.count) ∧
    (i = .init → t.rxb.count = 0 ∧ t.txb.count = 0)

/-- R104: `rx_prev` follows the line in every cycle without reset, is 1 after a reset cycle, and is written by no instruction. -/
def Obligations.PreviousLevelFollowsTheLine : Prop :=
  (∀ s t : State, step s = .next t → s.input.rst = false → t.rx_prev = s.input.rx_i) ∧
  (∀ s t : State, step s = .next t → s.input.rst = true → t.rx_prev = true) ∧
  (∀ (i : Instr) (s t : State), exec i s = .next t → t.rx_prev = s.rx_prev)

/-- R26 and R187: `rsp_valid` follows `cmd_valid`, and without a command the response is kept. -/
def Obligations.ResponsesAreHeld : Prop :=
  ∀ s t : State, step s = .next t → s.input.rst = false →
    t.rsp_valid = s.input.cmd_valid ∧
    (s.input.cmd_valid = false → t.rsp_data = s.rsp_data ∧ t.rsp_flag = s.rsp_flag ∧ t.rsp_ill = s.rsp_ill)

/-- R11, R168 and R170: a command other than INIT reaches of the tick side only the RX buffer (GET_BYTE), and the TX buffer and
generator (PUT_BYTE); an event never writes the response registers. -/
def Obligations.HostAndTickSideKeepApart : Prop :=
  (∀ (i : Instr) (s t : State), i.isCommand = true → i ≠ .init → exec i s = .next t →
    t.rx_state = s.rx_state ∧ t.rx_idx = s.rx_idx ∧ t.rx_shift = s.rx_shift ∧ t.edge_en = s.edge_en ∧ t.rx_prev = s.rx_prev ∧
    t.rxg = s.rxg ∧ t.tx_state = s.tx_state ∧ t.tx_idx = s.tx_idx ∧ t.tx_shift = s.tx_shift ∧ t.tx_o = s.tx_o ∧
    (i ≠ .getByte → t.rxb = s.rxb) ∧ ((∀ d, i ≠ .putByte d) → t.txb = s.txb ∧ t.txg = s.txg)) ∧
  (∀ (i : Instr) (s t : State), i.isCommand = false → exec i s = .next t →
    t.rsp_valid = s.rsp_valid ∧ t.rsp_data = s.rsp_data ∧ t.rsp_flag = s.rsp_flag ∧ t.rsp_ill = s.rsp_ill)

/-- R45: repeating a command without side effect changes nothing, while GET_BYTE removes the byte it returns. -/
def Obligations.QueriesAreIdempotent : Prop :=
  (∀ (i : Instr) (s t : State), i = .nop ∨ i = .rxEmpty ∨ i = .txEmpty ∨ i = .rxFull ∨ i = .txFull ∨ i = .status →
    exec i s = .next t →
    exec i t = .next t ∧ { t with rsp_data := s.rsp_data, rsp_flag := s.rsp_flag, rsp_ill := s.rsp_ill } = s) ∧
  (∀ s t : State, exec .getByte s = .next t → 0 < s.rxb.count →
    t.rxb.count + 1 = s.rxb.count ∧ t.rxb.tail = (s.rxb.tail + 1) % s.par.RX_CAP)

/-! ## Invariants and progress -/

/-- The reset state meets the invariant, for every legal parameter set. -/
def Obligations.ResetMeetsTheInvariant : Prop :=
  (∀ p : Params, p.legal = true → (State.resetOf p).Inv) ∧ State.reset.Inv

/-- Every step keeps the invariant, from every state that meets it. -/
def Obligations.StepKeepsTheInvariant : Prop :=
  ∀ s t : State, s.Inv → step s = .next t → t.Inv

/-- R27 and R28: "In every state reachable from reset, the following invariants hold", for every legal parameter set and every
sequence of inputs. -/
def Obligations.ReachableStatesMeetR28 : Prop :=
  ∀ (p : Params) (xs : List Input) (n : Nat) (t : State), p.legal = true →
    cycles n { State.resetOf p with inputs := xs } = .next t →
    t.R28 ∧ t.rxb.Wf p.RX_CAP ∧ t.txb.Wf p.TX_CAP

/-- R181: "every combination of values still has a defined step", reachable or not, and whatever the free values are. -/
def Obligations.EveryStateHasAStep : Prop :=
  ∀ s : State, s.par.legal = true → ∃ t, step s = .next t

/-! ## Independence -/

/-- R95 and R170: what the transmit side becomes depends on nothing of the receive side, the line `rx_i` included. -/
def Obligations.TxSideIgnoresTheRxSide : Prop :=
  ∀ s s' t t' : State, s.txView = s'.txView → s.input.rst = s'.input.rst → s.input.cmd_valid = s'.input.cmd_valid →
    s.input.cmd = s'.input.cmd → step s = .next t → step s' = .next t' → t.txView = t'.txView

/-- R95 and R170: what the receive side becomes depends on nothing of the transmit side. -/
def Obligations.RxSideIgnoresTheTxSide : Prop :=
  ∀ s s' t t' : State, s.rxView = s'.rxView → s.input = s'.input → step s = .next t → step s' = .next t' →
    t.rxView = t'.rxView

/-- R32, R33, R81: storage outside the occupied ranges, which reset leaves unspecified, never shows: two runs that differ only
there agree for ever, on the ports and on everything else. -/
def Obligations.DeadStorageNeverShows : Prop :=
  ∀ (n : Nat) (s t : State), s.Inv → t.Inv → s.Agree t →
    ∃ s' t', cycles n s = .next s' ∧ cycles n t = .next t' ∧ s'.Agree t' ∧ s'.outputs = t'.outputs

/-! ## Two events in one cycle -/

/-- R154, R48(b), R155: a GET_BYTE takes the byte the RX tick of its own cycle pushes into an empty buffer, and a PUT_BYTE in the
cycle of a disarming Stop tick re-arms the generator. -/
def Obligations.SameCycleOrder : Prop :=
  (∀ s : State, s.Inv → s.issues 0x2000#16 → s.rx_state = .bit → s.rx_idx = 7#3 → s.rxg.cnt = 1 → s.rxb.count = 0 →
    ∃ t, step s = .next t ∧ t.rsp_flag = true ∧ t.rsp_data = t.rx_shift ∧ t.rsp_data.getLsbD 7 = s.input.rx_i ∧
      t.rxb.count = 0 ∧ t.rx_state = .stop) ∧
  (∀ (s : State) (d : Byte), s.Inv → s.issues (0x50#8 ++ d) → s.tx_state = .stop → s.txg.cnt = 1 → s.txb.count = 0 →
    ∃ t, step s = .next t ∧ t.tx_o = true ∧ t.tx_state = .idle ∧ t.txg = { act := true, cnt := s.par.TX_OFF } ∧
      t.txb.contents s.par.TX_CAP = [d])

/-- R101 and R155: an edge in the cycle of the Stop tick that re-enables detection is taken. -/
def Obligations.EdgeAtTheStopTickIsTaken : Prop :=
  ∀ s : State, s.Inv → s.rx_state = .stop → s.rxg.cnt = 1 → s.fall = true → s.without isInit 1 →
    ∃ t, step s = .next t ∧ t.rx_state = .start ∧ t.edge_en = false ∧ t.rxg = { act := true, cnt := s.par.RX_OFF }

/-! ## Schedules -/

/-- R91 and R96: a generator armed with count `c` and not disarmed by INIT or reset counts down through the next `c - 1` cycles
without a tick, whatever else happens. -/
def Obligations.TimersCountDownToTheTick : Prop :=
  ∀ (b : Side) (n : Nat) (s : State), s.Inv → (s.gen b).act = true → n < (s.gen b).cnt → s.without isInit n →
    ∃ t, cycles n s = .next t ∧ t.gen b = { act := true, cnt := (s.gen b).cnt - n } ∧
      (b = .rx → t.rx_state = s.rx_state ∧ t.rx_idx = s.rx_idx ∧ t.rx_shift = s.rx_shift) ∧
      (b = .tx → t.tx_state = s.tx_state ∧ t.tx_idx = s.tx_idx ∧ t.tx_shift = s.tx_shift ∧ t.tx_o = s.tx_o)

/-- R118, R116 and R189: from the cycle in which an edge is taken, without INIT or reset: the machine is in START up to the Start
tick `RX_OFF` cycles on, then in BIT, sampling data bit `i` from the line `RX_OFF + (i+1)*P` cycles on, then in STOP; edge detection
stays off; the RX side pushes nothing except, once, the byte sampled, `RX_OFF + 8*P` cycles on; and the Stop tick is
`RX_OFF + 9*P` cycles on. -/
def Obligations.ReceivedFrameSchedule : Prop :=
  ∀ s : State, s.Inv → s.fall = true → (∃ u, rxSubstep s = .next u ∧ u.edge_en = true) →
    s.without isInit (s.par.RX_OFF + 9 * s.par.P) →
    (∀ k, 1 ≤ k → k ≤ s.par.RX_OFF + 9 * s.par.P →
      ∃ t u, cycles k s = .next t ∧ t.edge_en = false ∧ t.rxg.act = true ∧ rxSubstep t = .next u ∧
        (k ≤ s.par.RX_OFF → t.rx_state = .start) ∧
        (s.par.RX_OFF < k → k ≤ s.par.RX_OFF + 8 * s.par.P →
          t.rx_state = .bit ∧ t.rx_idx.toNat = (k - 1 - s.par.RX_OFF) / s.par.P) ∧
        (s.par.RX_OFF + 8 * s.par.P < k → t.rx_state = .stop) ∧
        (∀ i, i < 8 → s.par.RX_OFF + (i + 1) * s.par.P < k →
          t.rx_shift.getLsbD i = (s.inputAt (s.par.RX_OFF + (i + 1) * s.par.P)).rx_i) ∧
        (k = s.par.RX_OFF + 8 * s.par.P →
          u.rx_state = .stop ∧ Ring.put .rx s.par.RX_CAP u.rx_shift t.rxb = u.rxb ∧
          ∀ i, i < 8 → u.rx_shift.getLsbD i = (s.inputAt (s.par.RX_OFF + (i + 1) * s.par.P)).rx_i) ∧
        (k ≠ s.par.RX_OFF + 8 * s.par.P → u.rxb = t.rxb) ∧
        (k = s.par.RX_OFF + 9 * s.par.P → u.rx_state = .idle ∧ u.edge_en = true ∧ u.rxg.act = false))

/-- R126: the levels on the port from the PUT_BYTE that arms the transmitter to the end of its frame, least significant bit first;
then, with a byte queued at the Stop tick, the next start bit follows a stop bit of exactly `P` cycles, and with none the
generator is disarmed with the line high. -/
def Obligations.TransmittedFrameSchedule : Prop :=
  ∀ (s : State) (d : Byte), s.Inv → s.issues (0x50#8 ++ d) → (∃ u, tickSide s = .next u ∧ u.txg.act = false) →
    s.without isInit (s.par.TX_OFF + 11 * s.par.P + 1) →
    (∀ k, 1 ≤ k → k ≤ s.par.TX_OFF + 11 * s.par.P →
      ∃ t, cycles k s = .next t ∧
        t.tx_o = if k ≤ s.par.TX_OFF + s.par.P then true
          else if k ≤ s.par.TX_OFF + 2 * s.par.P then false
          else if k ≤ s.par.TX_OFF + 10 * s.par.P then d.getLsbD ((k - 1 - (s.par.TX_OFF + s.par.P)) / s.par.P - 1)
          else true) ∧
    (∃ w v, cycles (s.par.TX_OFF + 10 * s.par.P) s = .next w ∧ tickSide w = .next v ∧
      (w.txb.count = 0 → v.txg.act = false ∧ v.tx_state = .idle ∧ v.tx_o = true) ∧
      (w.txb.count ≠ 0 → ∃ t, cycles (s.par.TX_OFF + 11 * s.par.P + 1) s = .next t ∧ t.tx_o = false))

/-- The source's round trip (95_test_vectors.md X4 and V-LOOP): with the line looped back, a byte put into an idle transmitter is
received unchanged by an idle receiver with room, whatever other commands come but INIT and GET_BYTE, and without reset. -/
def Obligations.LoopbackRoundTrip : Prop :=
  ∀ (s : State) (d : Byte), s.Inv → s.rx_state = .idle → s.rx_prev = true → s.txg.act = false →
    s.rxb.count < s.par.RX_CAP → s.issues (0x50#8 ++ d) →
    s.without isInitOrGet (s.par.TX_OFF + s.par.RX_OFF + 9 * s.par.P + 2) →
    ∃ t, loopCycles (s.par.TX_OFF + s.par.RX_OFF + 9 * s.par.P + 2) s = .next t ∧
      t.rxb.contents s.par.RX_CAP = s.rxb.contents s.par.RX_CAP ++ [d] ∧
      (s.rxb.count = 0 → ∃ u, exec .getByte t = .next u ∧ u.rsp_data = d ∧ u.rsp_flag = true)

/-- R164 and R104: on a line that stays low an idle receiver whose `rx_prev` is 0 starts no frame, INIT or not, for ever. -/
def Obligations.StuckLowLineStartsNoFrame : Prop :=
  ∀ (n : Nat) (s : State), s.Inv → s.rx_state = .idle → s.rx_prev = false →
    (∀ k, k < n → (s.inputAt k).rst = false ∧ (s.inputAt k).rx_i = false) →
    ∃ t, cycles n s = .next t ∧ t.rx_state = .idle ∧ t.rx_prev = false ∧ t.rxb.count ≤ s.rxb.count

/-- R184: once the RX buffer holds a byte, a later GET_BYTE with no other between returns one, however long the host waits. -/
def Obligations.HeldByteWaitsForTheHost : Prop :=
  ∀ (n : Nat) (s : State), s.Inv → 0 < s.rxb.count → s.without isInitOrGet n →
    ∃ t u, cycles n s = .next t ∧ t.rxb.tail = s.rxb.tail ∧ s.rxb.count ≤ t.rxb.count ∧ exec .getByte t = .next u ∧
      u.rsp_flag = true ∧ u.rsp_data = Memory.read s.rxb.mem s.rxb.tail

/-- R185: once the TX buffer has room, a later PUT_BYTE with no other between keeps its byte, however long the host waits. -/
def Obligations.FreeSlotWaitsForTheHost : Prop :=
  ∀ (n : Nat) (s : State) (d : Byte), s.Inv → s.txb.count < s.par.TX_CAP → s.without isInitOrPut n →
    ∃ t u, cycles n s = .next t ∧ t.txb.count ≤ s.txb.count ∧ exec (.putByte d) t = .next u ∧
      u.txb.contents s.par.TX_CAP = t.txb.contents s.par.TX_CAP ++ [d]

/-- R183: the TX buffer is empty from the Start tick of the last byte on, while the byte is still to be sent; TXA falls only with
the line driven high. -/
def Obligations.ActiveBitFallsWithTheLineHigh : Prop :=
  (∀ s t : State, s.Inv → step s = .next t → s.txg.act = true → t.txg.act = false →
    t.tx_o = true ∧ t.tx_state = .idle ∧ t.txb.count = 0) ∧
  (∀ s t : State, s.Inv → exec .txTickStart s = .next t → s.txb.count = 1 →
    t.txb.count = 0 ∧ t.tx_state = .bit ∧ t.tx_idx = 0#3 ∧ t.txg = s.txg)
end

