-- ==== Sys2Proof/Laws/Counter.lean ====
section
/-! SUPPORT. The laws of the counters and of the bit-field helpers: `CW` bits hold every count up to `P` (00_scope.md R5), so a
count in `[1, P]` decrements without wrapping (41_timing_engine.md R91); setting a bit sets that bit alone (43_rx_sampler.md
R112). -/

namespace Sys2Proof

/-- `bitLength` bits hold `n`, given fuel enough. -/
theorem lt_two_pow_bitLength (fuel n : Nat) (h : n ≤ fuel) : n < 2 ^ bitLength fuel n := by
  induction fuel generalizing n with
  | zero =>
    obtain rfl : n = 0 := by omega
    simp [bitLength]
  | succ f ih =>
    by_cases hn : n = 0
    · simp [bitLength, hn]
    · have := ih (n / 2) (by omega)
      simp only [bitLength, hn, if_false, Nat.pow_succ]
      omega

/-- A timing-engine counter holds every count up to `P`. -/
theorem Params.P_lt_two_pow_CW (p : Params) : p.P < 2 ^ p.CW := lt_two_pow_bitLength p.P p.P (Nat.le_refl _)

namespace Machine

/-- In its width, a positive count decrements by one. -/
theorem decInWidth_of_pos {w x : Nat} (h0 : 0 < x) (hx : x < 2 ^ w) : decInWidth w x = x - 1 := by
  have hadd : x + (2 ^ w - 1) = (x - 1) + 2 ^ w := by omega
  rw [decInWidth, hadd, Nat.add_mod_right, Nat.mod_eq_of_lt (by omega)]

/-- A count in `[1, P]` decrements by one (R91: "`g_cnt` never underflows"). -/
theorem decInWidth_count {p : Params} {x : Nat} (h0 : 1 ≤ x) (hx : x ≤ p.P) : decInWidth p.CW x = x - 1 :=
  decInWidth_of_pos h0 (Nat.lt_of_le_of_lt hx p.P_lt_two_pow_CW)

/-- `setBit` sets the bit named and keeps the others. -/
theorem getLsbD_setBit (v : Byte) (i : BitIdx) (b : Bool) (j : Nat) (hj : j < 8) :
    (setBit v i b).getLsbD j = if j = i.toNat then b else v.getLsbD j := by
  have hi : i.toNat < 8 := i.isLt
  unfold setBit
  generalize i.toNat = k at *
  cases b
  · simp only [Bool.false_eq_true, if_false, BitVec.getLsbD_and, BitVec.getLsbD_not, BitVec.getLsbD_shiftLeft]
    interval_cases k <;> interval_cases j <;> simp
  · simp only [if_true, BitVec.getLsbD_or, BitVec.getLsbD_shiftLeft]
    interval_cases k <;> interval_cases j <;> simp

end Machine

end Sys2Proof
end

