-- ==== Sys2Proof/Laws/Memory.lean ====
section
/-! SUPPORT. The laws of ring storage: a read after a write gives the value written, a write leaves every other slot alone
(20_memory.md R51), and every write keeps the canonical form. -/

namespace Sys2Proof.Machine

/-- Weakening the bound of the canonical form. -/
theorem Memory.wfAbove_mono {m : Memory} {a b : Nat} (hab : a ≤ b) (h : Memory.wfAbove (some b) m = true) :
    Memory.wfAbove (some a) m = true := by
  cases m with
  | nil => rfl
  | cons c m =>
    simp only [Memory.wfAbove, Bool.and_eq_true, decide_eq_true_eq] at h ⊢
    exact ⟨⟨by omega, h.1.2⟩, h.2⟩

/-- A slot at or below the bound of a canonical list is not listed. -/
theorem Memory.read_of_le {m : Memory} {lo i : Nat} (h : Memory.wfAbove (some lo) m = true) (hi : i ≤ lo) :
    Memory.read m i = unwrittenByte := by
  induction m generalizing lo with
  | nil => rfl
  | cons c m ih =>
    simp only [Memory.wfAbove, Bool.and_eq_true, decide_eq_true_eq] at h
    have hne : i ≠ c.1 := by omega
    simp only [Memory.read, hne, if_false]
    exact ih h.2 (by omega)

/-- A read after a write, on a list in canonical form above some bound. -/
theorem Memory.read_write_above {m : Memory} {lo : Option Nat} (h : Memory.wfAbove lo m = true) (i j : Nat) (v : Byte) :
    Memory.read (Memory.write m i v) j = if j = i then v else Memory.read m j := by
  induction m generalizing lo with
  | nil => by_cases hv : v = unwrittenByte <;> by_cases hj : j = i <;> simp [Memory.write, Memory.read, hv, hj]
  | cons c m ih =>
    obtain ⟨k, x⟩ := c
    simp only [Memory.wfAbove, Bool.and_eq_true] at h
    simp only [Memory.write]
    by_cases hik : i < k
    · have hi : Memory.read m i = unwrittenByte := Memory.read_of_le h.2 (by omega)
      by_cases hv : v = unwrittenByte
      · by_cases hj : j = i
        · subst hj; simp [hik, hv, Memory.read, Nat.ne_of_lt hik, hi]
        · simp [hik, hv, hj]
      · simp [hik, hv, Memory.read]
    · by_cases hk : i = k
      · subst hk
        by_cases hv : v = unwrittenByte
        · by_cases hj : j = i
          · subst hj; simp [hv, Memory.read_of_le h.2]
          · simp [hv, hj, Memory.read]
        · by_cases hj : j = i <;> simp [hv, hj, Memory.read]
      · by_cases hj : j = k
        · have hne : j ≠ i := fun e => hk (e ▸ hj)
          simp [hik, hk, Memory.read, hj, Ne.symm hk]
        · simp [hik, hk, Memory.read, hj, ih h.2]

/-- "Every `MemRead` sees the last `MemWrite` to its slot" (R51), and no other slot changes. -/
theorem Memory.read_write {m : Memory} (h : m.wf = true) (i j : Nat) (v : Byte) :
    Memory.read (Memory.write m i v) j = if j = i then v else Memory.read m j :=
  Memory.read_write_above h i j v

/-- A write above the bound keeps the canonical form above the bound. -/
theorem Memory.write_wfAbove {m : Memory} {lo : Option Nat} (h : Memory.wfAbove lo m = true) (i : Nat) (v : Byte)
    (hi : ∀ l, lo = some l → l < i) : Memory.wfAbove lo (Memory.write m i v) = true := by
  induction m generalizing lo with
  | nil =>
    by_cases hv : v = unwrittenByte
    · simp [Memory.write, hv, Memory.wfAbove]
    · cases lo with
      | none => simp [Memory.write, hv, Memory.wfAbove]
      | some l => simp [Memory.write, hv, Memory.wfAbove, hi l rfl]
  | cons c m ih =>
    obtain ⟨k, x⟩ := c
    have h' := h
    simp only [Memory.wfAbove, Bool.and_eq_true, decide_eq_true_eq] at h
    simp only [Memory.write]
    by_cases hik : i < k
    · by_cases hv : v = unwrittenByte
      · simp [hik, hv, h']
      · simp only [hik, hv, if_true, if_false]
        cases lo with
        | none => simp [Memory.wfAbove, hv, hik, h.1.2, h.2]
        | some l => simp [Memory.wfAbove, hv, hik, h.1.2, h.2, hi l rfl]
    · by_cases hk : i = k
      · subst hk
        by_cases hv : v = unwrittenByte
        · simp only [hv, if_true, lt_irrefl, if_false]
          cases lo with
          | none =>
            cases m with
            | nil => rfl
            | cons d m =>
              have := h.2
              simp only [Memory.wfAbove, Bool.and_eq_true, decide_eq_true_eq] at this ⊢
              exact ⟨⟨trivial, this.1.2⟩, this.2⟩
          | some l => exact Memory.wfAbove_mono (Nat.le_of_lt (hi l rfl)) h.2
        · simp only [hv, if_true, lt_irrefl, if_false]
          cases lo with
          | none => simp [Memory.wfAbove, hv, h.2]
          | some l => simp [Memory.wfAbove, hv, h.2, hi l rfl]
      · simp only [hik, hk, if_false, Memory.wfAbove, Bool.and_eq_true, decide_eq_true_eq]
        exact ⟨h.1, ih h.2 (by intro l e; cases e; omega)⟩

/-- A write keeps the canonical form. -/
theorem Memory.write_wf {m : Memory} (h : m.wf = true) (i : Nat) (v : Byte) : (Memory.write m i v).wf = true :=
  Memory.write_wfAbove h i v (by intro l e; cases e)

/-- `memRead` reads the slot where it exists. -/
theorem memRead_of_lt {cap i : Nat} (h : i < cap) (b : Side) (r : Ring) : memRead b cap i r = Memory.read r.mem i := by
  simp [memRead, h]

/-- `memRead` gives the side's next free value where the slot does not exist. -/
theorem memRead_stray {cap i : Nat} (h : cap ≤ i) (b : Side) (r : Ring) :
    memRead b cap i r = Config.strayByte b r.stray := by
  simp [memRead, Nat.not_lt.mpr h]

/-- `MemWrite` stores to the slot named where it exists. -/
theorem slotStored_of_lt {cap i : Nat} (h : i < cap) (b : Side) (r : Ring) : slotStored b cap i r = i := by
  simp [slotStored, h]

/-- `MemWrite` stores to the side's next free slot where the slot named does not exist. -/
theorem slotStored_stray {cap i : Nat} (h : cap ≤ i) (b : Side) (r : Ring) :
    slotStored b cap i r = Config.straySlot b r.stray := by
  simp [slotStored, Nat.not_lt.mpr h]

/-- `memWrite` stores to the slot named where it exists. -/
theorem memWrite_of_lt {cap i : Nat} (h : i < cap) (b : Side) (v : Byte) (r : Ring) :
    memWrite b cap i v r = Memory.write r.mem i v := by
  simp [memWrite, slotStored_of_lt h, h]

/-- An access to a slot that exists takes no free value. -/
theorem nextStray_of_lt {cap i : Nat} (h : i < cap) (r : Ring) : nextStray cap i r = r.stray := by
  simp [nextStray, h]

/-- An access to a slot that does not exist takes one free value. -/
theorem nextStray_stray {cap i : Nat} (h : cap ≤ i) (r : Ring) : nextStray cap i r = r.stray + 1 := by
  simp [nextStray, Nat.not_lt.mpr h]

/-- `memWrite` changes the slot stored to, if it is one, and no other. -/
theorem memRead_memWrite {cap i : Nat} {r : Ring} (hm : r.mem.wf = true) (b : Side) (v : Byte) (j : Nat) :
    Memory.read (memWrite b cap i v r) j =
      if slotStored b cap i r < cap ∧ j = slotStored b cap i r then v else Memory.read r.mem j := by
  by_cases h : slotStored b cap i r < cap
  · simp [memWrite, h, Memory.read_write hm]
  · simp [memWrite, h]

/-- `memWrite` keeps the canonical form. -/
theorem memWrite_wf {r : Ring} (hm : r.mem.wf = true) (b : Side) (cap i : Nat) (v : Byte) :
    (memWrite b cap i v r).wf = true := by
  by_cases h : slotStored b cap i r < cap
  · simpa [memWrite, h] using Memory.write_wf hm _ v
  · simpa [memWrite, h] using hm

end Sys2Proof.Machine
end

