-- ==== Sys2Proof/Laws/State.lean ====
section
/-! SUPPORT. What each named update of the state does to each field: one lemma a field an update, all simp lemmas, so that no
later proof unfolds a record update; and the same for the readings `input`, `inputAt`, `rx_i`, `ring`, `gen` and `cap`. -/

namespace Sys2Proof.Machine

/-! ## setRing -/

@[simp] theorem setRing_par (b : Side) (s : State) (r : Ring) : (s.setRing b r).par = s.par := by cases b <;> rfl
@[simp] theorem setRing_rx_state (b : Side) (s : State) (r : Ring) : (s.setRing b r).rx_state = s.rx_state := by cases b <;> rfl
@[simp] theorem setRing_rx_idx (b : Side) (s : State) (r : Ring) : (s.setRing b r).rx_idx = s.rx_idx := by cases b <;> rfl
@[simp] theorem setRing_rx_shift (b : Side) (s : State) (r : Ring) : (s.setRing b r).rx_shift = s.rx_shift := by cases b <;> rfl
@[simp] theorem setRing_edge_en (b : Side) (s : State) (r : Ring) : (s.setRing b r).edge_en = s.edge_en := by cases b <;> rfl
@[simp] theorem setRing_rx_prev (b : Side) (s : State) (r : Ring) : (s.setRing b r).rx_prev = s.rx_prev := by cases b <;> rfl
@[simp] theorem setRing_rxg (b : Side) (s : State) (r : Ring) : (s.setRing b r).rxg = s.rxg := by cases b <;> rfl
@[simp] theorem setRing_tx_state (b : Side) (s : State) (r : Ring) : (s.setRing b r).tx_state = s.tx_state := by cases b <;> rfl
@[simp] theorem setRing_tx_idx (b : Side) (s : State) (r : Ring) : (s.setRing b r).tx_idx = s.tx_idx := by cases b <;> rfl
@[simp] theorem setRing_tx_shift (b : Side) (s : State) (r : Ring) : (s.setRing b r).tx_shift = s.tx_shift := by cases b <;> rfl
@[simp] theorem setRing_tx_o (b : Side) (s : State) (r : Ring) : (s.setRing b r).tx_o = s.tx_o := by cases b <;> rfl
@[simp] theorem setRing_txg (b : Side) (s : State) (r : Ring) : (s.setRing b r).txg = s.txg := by cases b <;> rfl
@[simp] theorem setRing_rx_rxb (s : State) (r : Ring) : (s.setRing .rx r).rxb = r := rfl
@[simp] theorem setRing_tx_rxb (s : State) (r : Ring) : (s.setRing .tx r).rxb = s.rxb := rfl
@[simp] theorem setRing_tx_txb (s : State) (r : Ring) : (s.setRing .tx r).txb = r := rfl
@[simp] theorem setRing_rx_txb (s : State) (r : Ring) : (s.setRing .rx r).txb = s.txb := rfl
@[simp] theorem setRing_rsp_valid (b : Side) (s : State) (r : Ring) : (s.setRing b r).rsp_valid = s.rsp_valid := by cases b <;> rfl
@[simp] theorem setRing_rsp_data (b : Side) (s : State) (r : Ring) : (s.setRing b r).rsp_data = s.rsp_data := by cases b <;> rfl
@[simp] theorem setRing_rsp_flag (b : Side) (s : State) (r : Ring) : (s.setRing b r).rsp_flag = s.rsp_flag := by cases b <;> rfl
@[simp] theorem setRing_rsp_ill (b : Side) (s : State) (r : Ring) : (s.setRing b r).rsp_ill = s.rsp_ill := by cases b <;> rfl
@[simp] theorem setRing_inputs (b : Side) (s : State) (r : Ring) : (s.setRing b r).inputs = s.inputs := by cases b <;> rfl

/-! ## setGen -/

@[simp] theorem setGen_par (b : Side) (s : State) (g : Gen) : (s.setGen b g).par = s.par := by cases b <;> rfl
@[simp] theorem setGen_rx_state (b : Side) (s : State) (g : Gen) : (s.setGen b g).rx_state = s.rx_state := by cases b <;> rfl
@[simp] theorem setGen_rx_idx (b : Side) (s : State) (g : Gen) : (s.setGen b g).rx_idx = s.rx_idx := by cases b <;> rfl
@[simp] theorem setGen_rx_shift (b : Side) (s : State) (g : Gen) : (s.setGen b g).rx_shift = s.rx_shift := by cases b <;> rfl
@[simp] theorem setGen_edge_en (b : Side) (s : State) (g : Gen) : (s.setGen b g).edge_en = s.edge_en := by cases b <;> rfl
@[simp] theorem setGen_rx_prev (b : Side) (s : State) (g : Gen) : (s.setGen b g).rx_prev = s.rx_prev := by cases b <;> rfl
@[simp] theorem setGen_rx_rxg (s : State) (g : Gen) : (s.setGen .rx g).rxg = g := rfl
@[simp] theorem setGen_tx_rxg (s : State) (g : Gen) : (s.setGen .tx g).rxg = s.rxg := rfl
@[simp] theorem setGen_tx_state (b : Side) (s : State) (g : Gen) : (s.setGen b g).tx_state = s.tx_state := by cases b <;> rfl
@[simp] theorem setGen_tx_idx (b : Side) (s : State) (g : Gen) : (s.setGen b g).tx_idx = s.tx_idx := by cases b <;> rfl
@[simp] theorem setGen_tx_shift (b : Side) (s : State) (g : Gen) : (s.setGen b g).tx_shift = s.tx_shift := by cases b <;> rfl
@[simp] theorem setGen_tx_o (b : Side) (s : State) (g : Gen) : (s.setGen b g).tx_o = s.tx_o := by cases b <;> rfl
@[simp] theorem setGen_tx_txg (s : State) (g : Gen) : (s.setGen .tx g).txg = g := rfl
@[simp] theorem setGen_rx_txg (s : State) (g : Gen) : (s.setGen .rx g).txg = s.txg := rfl
@[simp] theorem setGen_rxb (b : Side) (s : State) (g : Gen) : (s.setGen b g).rxb = s.rxb := by cases b <;> rfl
@[simp] theorem setGen_txb (b : Side) (s : State) (g : Gen) : (s.setGen b g).txb = s.txb := by cases b <;> rfl
@[simp] theorem setGen_rsp_valid (b : Side) (s : State) (g : Gen) : (s.setGen b g).rsp_valid = s.rsp_valid := by cases b <;> rfl
@[simp] theorem setGen_rsp_data (b : Side) (s : State) (g : Gen) : (s.setGen b g).rsp_data = s.rsp_data := by cases b <;> rfl
@[simp] theorem setGen_rsp_flag (b : Side) (s : State) (g : Gen) : (s.setGen b g).rsp_flag = s.rsp_flag := by cases b <;> rfl
@[simp] theorem setGen_rsp_ill (b : Side) (s : State) (g : Gen) : (s.setGen b g).rsp_ill = s.rsp_ill := by cases b <;> rfl
@[simp] theorem setGen_inputs (b : Side) (s : State) (g : Gen) : (s.setGen b g).inputs = s.inputs := by cases b <;> rfl

/-! ## respond -/

@[simp] theorem respond_par (s : State) (d : Byte) (f : Bool) : (s.respond d f).par = s.par := rfl
@[simp] theorem respond_rx_state (s : State) (d : Byte) (f : Bool) : (s.respond d f).rx_state = s.rx_state := rfl
@[simp] theorem respond_rx_idx (s : State) (d : Byte) (f : Bool) : (s.respond d f).rx_idx = s.rx_idx := rfl
@[simp] theorem respond_rx_shift (s : State) (d : Byte) (f : Bool) : (s.respond d f).rx_shift = s.rx_shift := rfl
@[simp] theorem respond_edge_en (s : State) (d : Byte) (f : Bool) : (s.respond d f).edge_en = s.edge_en := rfl
@[simp] theorem respond_rx_prev (s : State) (d : Byte) (f : Bool) : (s.respond d f).rx_prev = s.rx_prev := rfl
@[simp] theorem respond_rxg (s : State) (d : Byte) (f : Bool) : (s.respond d f).rxg = s.rxg := rfl
@[simp] theorem respond_tx_state (s : State) (d : Byte) (f : Bool) : (s.respond d f).tx_state = s.tx_state := rfl
@[simp] theorem respond_tx_idx (s : State) (d : Byte) (f : Bool) : (s.respond d f).tx_idx = s.tx_idx := rfl
@[simp] theorem respond_tx_shift (s : State) (d : Byte) (f : Bool) : (s.respond d f).tx_shift = s.tx_shift := rfl
@[simp] theorem respond_tx_o (s : State) (d : Byte) (f : Bool) : (s.respond d f).tx_o = s.tx_o := rfl
@[simp] theorem respond_txg (s : State) (d : Byte) (f : Bool) : (s.respond d f).txg = s.txg := rfl
@[simp] theorem respond_rxb (s : State) (d : Byte) (f : Bool) : (s.respond d f).rxb = s.rxb := rfl
@[simp] theorem respond_txb (s : State) (d : Byte) (f : Bool) : (s.respond d f).txb = s.txb := rfl
@[simp] theorem respond_rsp_valid (s : State) (d : Byte) (f : Bool) : (s.respond d f).rsp_valid = s.rsp_valid := rfl
@[simp] theorem respond_rsp_data (s : State) (d : Byte) (f : Bool) : (s.respond d f).rsp_data = d := rfl
@[simp] theorem respond_rsp_flag (s : State) (d : Byte) (f : Bool) : (s.respond d f).rsp_flag = f := rfl
@[simp] theorem respond_rsp_ill (s : State) (d : Byte) (f : Bool) : (s.respond d f).rsp_ill = false := rfl
@[simp] theorem respond_inputs (s : State) (d : Byte) (f : Bool) : (s.respond d f).inputs = s.inputs := rfl

/-! ## raiseIllegalCommand -/

@[simp] theorem raiseIllegalCommand_par (s : State) : (s.raiseIllegalCommand).par = s.par := rfl
@[simp] theorem raiseIllegalCommand_rx_state (s : State) : (s.raiseIllegalCommand).rx_state = s.rx_state := rfl
@[simp] theorem raiseIllegalCommand_rx_idx (s : State) : (s.raiseIllegalCommand).rx_idx = s.rx_idx := rfl
@[simp] theorem raiseIllegalCommand_rx_shift (s : State) : (s.raiseIllegalCommand).rx_shift = s.rx_shift := rfl
@[simp] theorem raiseIllegalCommand_edge_en (s : State) : (s.raiseIllegalCommand).edge_en = s.edge_en := rfl
@[simp] theorem raiseIllegalCommand_rx_prev (s : State) : (s.raiseIllegalCommand).rx_prev = s.rx_prev := rfl
@[simp] theorem raiseIllegalCommand_rxg (s : State) : (s.raiseIllegalCommand).rxg = s.rxg := rfl
@[simp] theorem raiseIllegalCommand_tx_state (s : State) : (s.raiseIllegalCommand).tx_state = s.tx_state := rfl
@[simp] theorem raiseIllegalCommand_tx_idx (s : State) : (s.raiseIllegalCommand).tx_idx = s.tx_idx := rfl
@[simp] theorem raiseIllegalCommand_tx_shift (s : State) : (s.raiseIllegalCommand).tx_shift = s.tx_shift := rfl
@[simp] theorem raiseIllegalCommand_tx_o (s : State) : (s.raiseIllegalCommand).tx_o = s.tx_o := rfl
@[simp] theorem raiseIllegalCommand_txg (s : State) : (s.raiseIllegalCommand).txg = s.txg := rfl
@[simp] theorem raiseIllegalCommand_rxb (s : State) : (s.raiseIllegalCommand).rxb = s.rxb := rfl
@[simp] theorem raiseIllegalCommand_txb (s : State) : (s.raiseIllegalCommand).txb = s.txb := rfl
@[simp] theorem raiseIllegalCommand_rsp_valid (s : State) : (s.raiseIllegalCommand).rsp_valid = s.rsp_valid := rfl
@[simp] theorem raiseIllegalCommand_rsp_data (s : State) : (s.raiseIllegalCommand).rsp_data = 0x00#8 := rfl
@[simp] theorem raiseIllegalCommand_rsp_flag (s : State) : (s.raiseIllegalCommand).rsp_flag = false := rfl
@[simp] theorem raiseIllegalCommand_rsp_ill (s : State) : (s.raiseIllegalCommand).rsp_ill = true := rfl
@[simp] theorem raiseIllegalCommand_inputs (s : State) : (s.raiseIllegalCommand).inputs = s.inputs := rfl

/-! ## initBlock -/

@[simp] theorem initBlock_par (s : State) : (s.initBlock).par = s.par := rfl
@[simp] theorem initBlock_rx_state (s : State) : (s.initBlock).rx_state = .idle := rfl
@[simp] theorem initBlock_rx_idx (s : State) : (s.initBlock).rx_idx = 0#3 := rfl
@[simp] theorem initBlock_rx_shift (s : State) : (s.initBlock).rx_shift = 0x00#8 := rfl
@[simp] theorem initBlock_edge_en (s : State) : (s.initBlock).edge_en = true := rfl
@[simp] theorem initBlock_rx_prev (s : State) : (s.initBlock).rx_prev = s.rx_prev := rfl
@[simp] theorem initBlock_rxg (s : State) : (s.initBlock).rxg = Gen.off := rfl
@[simp] theorem initBlock_tx_state (s : State) : (s.initBlock).tx_state = .idle := rfl
@[simp] theorem initBlock_tx_idx (s : State) : (s.initBlock).tx_idx = 0#3 := rfl
@[simp] theorem initBlock_tx_shift (s : State) : (s.initBlock).tx_shift = 0x00#8 := rfl
@[simp] theorem initBlock_tx_o (s : State) : (s.initBlock).tx_o = true := rfl
@[simp] theorem initBlock_txg (s : State) : (s.initBlock).txg = Gen.off := rfl
@[simp] theorem initBlock_rxb (s : State) : (s.initBlock).rxb = s.rxb.emptied := rfl
@[simp] theorem initBlock_txb (s : State) : (s.initBlock).txb = s.txb.emptied := rfl
@[simp] theorem initBlock_rsp_valid (s : State) : (s.initBlock).rsp_valid = s.rsp_valid := rfl
@[simp] theorem initBlock_rsp_data (s : State) : (s.initBlock).rsp_data = s.rsp_data := rfl
@[simp] theorem initBlock_rsp_flag (s : State) : (s.initBlock).rsp_flag = s.rsp_flag := rfl
@[simp] theorem initBlock_rsp_ill (s : State) : (s.initBlock).rsp_ill = s.rsp_ill := rfl
@[simp] theorem initBlock_inputs (s : State) : (s.initBlock).inputs = s.inputs := rfl

/-! ## resetBlock -/

@[simp] theorem resetBlock_par (s : State) : (s.resetBlock).par = s.par := rfl
@[simp] theorem resetBlock_rx_state (s : State) : (s.resetBlock).rx_state = .idle := rfl
@[simp] theorem resetBlock_rx_idx (s : State) : (s.resetBlock).rx_idx = 0#3 := rfl
@[simp] theorem resetBlock_rx_shift (s : State) : (s.resetBlock).rx_shift = 0x00#8 := rfl
@[simp] theorem resetBlock_edge_en (s : State) : (s.resetBlock).edge_en = true := rfl
@[simp] theorem resetBlock_rx_prev (s : State) : (s.resetBlock).rx_prev = true := rfl
@[simp] theorem resetBlock_rxg (s : State) : (s.resetBlock).rxg = Gen.off := rfl
@[simp] theorem resetBlock_tx_state (s : State) : (s.resetBlock).tx_state = .idle := rfl
@[simp] theorem resetBlock_tx_idx (s : State) : (s.resetBlock).tx_idx = 0#3 := rfl
@[simp] theorem resetBlock_tx_shift (s : State) : (s.resetBlock).tx_shift = 0x00#8 := rfl
@[simp] theorem resetBlock_tx_o (s : State) : (s.resetBlock).tx_o = true := rfl
@[simp] theorem resetBlock_txg (s : State) : (s.resetBlock).txg = Gen.off := rfl
@[simp] theorem resetBlock_rxb (s : State) : (s.resetBlock).rxb = s.rxb.emptied := rfl
@[simp] theorem resetBlock_txb (s : State) : (s.resetBlock).txb = s.txb.emptied := rfl
@[simp] theorem resetBlock_rsp_valid (s : State) : (s.resetBlock).rsp_valid = false := rfl
@[simp] theorem resetBlock_rsp_data (s : State) : (s.resetBlock).rsp_data = 0x00#8 := rfl
@[simp] theorem resetBlock_rsp_flag (s : State) : (s.resetBlock).rsp_flag = false := rfl
@[simp] theorem resetBlock_rsp_ill (s : State) : (s.resetBlock).rsp_ill = false := rfl
@[simp] theorem resetBlock_inputs (s : State) : (s.resetBlock).inputs = s.inputs := rfl

/-! ## resetCycle -/

@[simp] theorem resetCycle_par (s : State) : (resetCycle s).par = s.par := rfl
@[simp] theorem resetCycle_rx_state (s : State) : (resetCycle s).rx_state = .idle := rfl
@[simp] theorem resetCycle_rx_idx (s : State) : (resetCycle s).rx_idx = 0#3 := rfl
@[simp] theorem resetCycle_rx_shift (s : State) : (resetCycle s).rx_shift = 0x00#8 := rfl
@[simp] theorem resetCycle_edge_en (s : State) : (resetCycle s).edge_en = true := rfl
@[simp] theorem resetCycle_rx_prev (s : State) : (resetCycle s).rx_prev = true := rfl
@[simp] theorem resetCycle_rxg (s : State) : (resetCycle s).rxg = Gen.off := rfl
@[simp] theorem resetCycle_tx_state (s : State) : (resetCycle s).tx_state = .idle := rfl
@[simp] theorem resetCycle_tx_idx (s : State) : (resetCycle s).tx_idx = 0#3 := rfl
@[simp] theorem resetCycle_tx_shift (s : State) : (resetCycle s).tx_shift = 0x00#8 := rfl
@[simp] theorem resetCycle_tx_o (s : State) : (resetCycle s).tx_o = true := rfl
@[simp] theorem resetCycle_txg (s : State) : (resetCycle s).txg = Gen.off := rfl
@[simp] theorem resetCycle_rxb (s : State) : (resetCycle s).rxb = s.rxb.emptied := rfl
@[simp] theorem resetCycle_txb (s : State) : (resetCycle s).txb = s.txb.emptied := rfl
@[simp] theorem resetCycle_rsp_valid (s : State) : (resetCycle s).rsp_valid = false := rfl
@[simp] theorem resetCycle_rsp_data (s : State) : (resetCycle s).rsp_data = 0x00#8 := rfl
@[simp] theorem resetCycle_rsp_flag (s : State) : (resetCycle s).rsp_flag = false := rfl
@[simp] theorem resetCycle_rsp_ill (s : State) : (resetCycle s).rsp_ill = false := rfl
@[simp] theorem resetCycle_inputs (s : State) : (resetCycle s).inputs = s.inputs.tail := rfl

/-! ## noteLevel -/

@[simp] theorem noteLevel_par (s : State) : (s.noteLevel).par = s.par := rfl
@[simp] theorem noteLevel_rx_state (s : State) : (s.noteLevel).rx_state = s.rx_state := rfl
@[simp] theorem noteLevel_rx_idx (s : State) : (s.noteLevel).rx_idx = s.rx_idx := rfl
@[simp] theorem noteLevel_rx_shift (s : State) : (s.noteLevel).rx_shift = s.rx_shift := rfl
@[simp] theorem noteLevel_edge_en (s : State) : (s.noteLevel).edge_en = s.edge_en := rfl
@[simp] theorem noteLevel_rx_prev (s : State) : (s.noteLevel).rx_prev = s.rx_i := rfl
@[simp] theorem noteLevel_rxg (s : State) : (s.noteLevel).rxg = s.rxg := rfl
@[simp] theorem noteLevel_tx_state (s : State) : (s.noteLevel).tx_state = s.tx_state := rfl
@[simp] theorem noteLevel_tx_idx (s : State) : (s.noteLevel).tx_idx = s.tx_idx := rfl
@[simp] theorem noteLevel_tx_shift (s : State) : (s.noteLevel).tx_shift = s.tx_shift := rfl
@[simp] theorem noteLevel_tx_o (s : State) : (s.noteLevel).tx_o = s.tx_o := rfl
@[simp] theorem noteLevel_txg (s : State) : (s.noteLevel).txg = s.txg := rfl
@[simp] theorem noteLevel_rxb (s : State) : (s.noteLevel).rxb = s.rxb := rfl
@[simp] theorem noteLevel_txb (s : State) : (s.noteLevel).txb = s.txb := rfl
@[simp] theorem noteLevel_rsp_valid (s : State) : (s.noteLevel).rsp_valid = s.rsp_valid := rfl
@[simp] theorem noteLevel_rsp_data (s : State) : (s.noteLevel).rsp_data = s.rsp_data := rfl
@[simp] theorem noteLevel_rsp_flag (s : State) : (s.noteLevel).rsp_flag = s.rsp_flag := rfl
@[simp] theorem noteLevel_rsp_ill (s : State) : (s.noteLevel).rsp_ill = s.rsp_ill := rfl
@[simp] theorem noteLevel_inputs (s : State) : (s.noteLevel).inputs = s.inputs := rfl

/-! ## endCycle -/

@[simp] theorem endCycle_par (s : State) : (s.endCycle).par = s.par := rfl
@[simp] theorem endCycle_rx_state (s : State) : (s.endCycle).rx_state = s.rx_state := rfl
@[simp] theorem endCycle_rx_idx (s : State) : (s.endCycle).rx_idx = s.rx_idx := rfl
@[simp] theorem endCycle_rx_shift (s : State) : (s.endCycle).rx_shift = s.rx_shift := rfl
@[simp] theorem endCycle_edge_en (s : State) : (s.endCycle).edge_en = s.edge_en := rfl
@[simp] theorem endCycle_rx_prev (s : State) : (s.endCycle).rx_prev = s.rx_prev := rfl
@[simp] theorem endCycle_rxg (s : State) : (s.endCycle).rxg = s.rxg := rfl
@[simp] theorem endCycle_tx_state (s : State) : (s.endCycle).tx_state = s.tx_state := rfl
@[simp] theorem endCycle_tx_idx (s : State) : (s.endCycle).tx_idx = s.tx_idx := rfl
@[simp] theorem endCycle_tx_shift (s : State) : (s.endCycle).tx_shift = s.tx_shift := rfl
@[simp] theorem endCycle_tx_o (s : State) : (s.endCycle).tx_o = s.tx_o := rfl
@[simp] theorem endCycle_txg (s : State) : (s.endCycle).txg = s.txg := rfl
@[simp] theorem endCycle_rxb (s : State) : (s.endCycle).rxb = s.rxb := rfl
@[simp] theorem endCycle_txb (s : State) : (s.endCycle).txb = s.txb := rfl
@[simp] theorem endCycle_rsp_valid (s : State) : (s.endCycle).rsp_valid = s.input.cmd_valid := rfl
@[simp] theorem endCycle_rsp_data (s : State) : (s.endCycle).rsp_data = s.rsp_data := rfl
@[simp] theorem endCycle_rsp_flag (s : State) : (s.endCycle).rsp_flag = s.rsp_flag := rfl
@[simp] theorem endCycle_rsp_ill (s : State) : (s.endCycle).rsp_ill = s.rsp_ill := rfl
@[simp] theorem endCycle_inputs (s : State) : (s.endCycle).inputs = s.inputs.tail := rfl

/-! ## sampleBit -/

@[simp] theorem sampleBit_par (s : State) : (s.sampleBit).par = s.par := rfl
@[simp] theorem sampleBit_rx_state (s : State) : (s.sampleBit).rx_state = s.rx_state := rfl
@[simp] theorem sampleBit_rx_idx (s : State) : (s.sampleBit).rx_idx = s.rx_idx + 1#3 := rfl
@[simp] theorem sampleBit_rx_shift (s : State) : (s.sampleBit).rx_shift = setBit s.rx_shift s.rx_idx s.rx_i := rfl
@[simp] theorem sampleBit_edge_en (s : State) : (s.sampleBit).edge_en = s.edge_en := rfl
@[simp] theorem sampleBit_rx_prev (s : State) : (s.sampleBit).rx_prev = s.rx_prev := rfl
@[simp] theorem sampleBit_rxg (s : State) : (s.sampleBit).rxg = s.rxg := rfl
@[simp] theorem sampleBit_tx_state (s : State) : (s.sampleBit).tx_state = s.tx_state := rfl
@[simp] theorem sampleBit_tx_idx (s : State) : (s.sampleBit).tx_idx = s.tx_idx := rfl
@[simp] theorem sampleBit_tx_shift (s : State) : (s.sampleBit).tx_shift = s.tx_shift := rfl
@[simp] theorem sampleBit_tx_o (s : State) : (s.sampleBit).tx_o = s.tx_o := rfl
@[simp] theorem sampleBit_txg (s : State) : (s.sampleBit).txg = s.txg := rfl
@[simp] theorem sampleBit_rxb (s : State) : (s.sampleBit).rxb = s.rxb := rfl
@[simp] theorem sampleBit_txb (s : State) : (s.sampleBit).txb = s.txb := rfl
@[simp] theorem sampleBit_rsp_valid (s : State) : (s.sampleBit).rsp_valid = s.rsp_valid := rfl
@[simp] theorem sampleBit_rsp_data (s : State) : (s.sampleBit).rsp_data = s.rsp_data := rfl
@[simp] theorem sampleBit_rsp_flag (s : State) : (s.sampleBit).rsp_flag = s.rsp_flag := rfl
@[simp] theorem sampleBit_rsp_ill (s : State) : (s.sampleBit).rsp_ill = s.rsp_ill := rfl
@[simp] theorem sampleBit_inputs (s : State) : (s.sampleBit).inputs = s.inputs := rfl

/-! ## withInput -/

@[simp] theorem withInput_par (s : State) (x : Input) : (s.withInput x).par = s.par := rfl
@[simp] theorem withInput_rx_state (s : State) (x : Input) : (s.withInput x).rx_state = s.rx_state := rfl
@[simp] theorem withInput_rx_idx (s : State) (x : Input) : (s.withInput x).rx_idx = s.rx_idx := rfl
@[simp] theorem withInput_rx_shift (s : State) (x : Input) : (s.withInput x).rx_shift = s.rx_shift := rfl
@[simp] theorem withInput_edge_en (s : State) (x : Input) : (s.withInput x).edge_en = s.edge_en := rfl
@[simp] theorem withInput_rx_prev (s : State) (x : Input) : (s.withInput x).rx_prev = s.rx_prev := rfl
@[simp] theorem withInput_rxg (s : State) (x : Input) : (s.withInput x).rxg = s.rxg := rfl
@[simp] theorem withInput_tx_state (s : State) (x : Input) : (s.withInput x).tx_state = s.tx_state := rfl
@[simp] theorem withInput_tx_idx (s : State) (x : Input) : (s.withInput x).tx_idx = s.tx_idx := rfl
@[simp] theorem withInput_tx_shift (s : State) (x : Input) : (s.withInput x).tx_shift = s.tx_shift := rfl
@[simp] theorem withInput_tx_o (s : State) (x : Input) : (s.withInput x).tx_o = s.tx_o := rfl
@[simp] theorem withInput_txg (s : State) (x : Input) : (s.withInput x).txg = s.txg := rfl
@[simp] theorem withInput_rxb (s : State) (x : Input) : (s.withInput x).rxb = s.rxb := rfl
@[simp] theorem withInput_txb (s : State) (x : Input) : (s.withInput x).txb = s.txb := rfl
@[simp] theorem withInput_rsp_valid (s : State) (x : Input) : (s.withInput x).rsp_valid = s.rsp_valid := rfl
@[simp] theorem withInput_rsp_data (s : State) (x : Input) : (s.withInput x).rsp_data = s.rsp_data := rfl
@[simp] theorem withInput_rsp_flag (s : State) (x : Input) : (s.withInput x).rsp_flag = s.rsp_flag := rfl
@[simp] theorem withInput_rsp_ill (s : State) (x : Input) : (s.withInput x).rsp_ill = s.rsp_ill := rfl
@[simp] theorem withInput_inputs (s : State) (x : Input) : (s.withInput x).inputs = x :: s.inputs.tail := rfl

/-! ## The generator and buffer of a side -/

@[simp] theorem arm_eq (b : Side) (off : Nat) (s : State) : s.arm b off = s.setGen b { act := true, cnt := off } := rfl
@[simp] theorem disarm_eq (b : Side) (s : State) : s.disarm b = s.setGen b Gen.off := rfl
@[simp] theorem ring_rx (s : State) : s.ring .rx = s.rxb := rfl
@[simp] theorem ring_tx (s : State) : s.ring .tx = s.txb := rfl
@[simp] theorem gen_rx (s : State) : s.gen .rx = s.rxg := rfl
@[simp] theorem gen_tx (s : State) : s.gen .tx = s.txg := rfl
@[simp] theorem cap_rx (s : State) : s.cap .rx = s.par.RX_CAP := rfl
@[simp] theorem cap_tx (s : State) : s.cap .tx = s.par.TX_CAP := rfl
@[simp] theorem active_rx (s : State) : s.active .rx = s.rxg.act := rfl
@[simp] theorem active_tx (s : State) : s.active .tx = s.txg.act := rfl
@[simp] theorem ring_setRing (b : Side) (r : Ring) (s : State) : (s.setRing b r).ring b = r := by cases b <;> rfl
@[simp] theorem gen_setGen (b : Side) (g : Gen) (s : State) : (s.setGen b g).gen b = g := by cases b <;> rfl
@[simp] theorem gen_setRing (b c : Side) (r : Ring) (s : State) : (s.setRing b r).gen c = s.gen c := by
  cases b <;> cases c <;> rfl
@[simp] theorem ring_setGen (b c : Side) (g : Gen) (s : State) : (s.setGen b g).ring c = s.ring c := by
  cases b <;> cases c <;> rfl
@[simp] theorem cap_setRing (b c : Side) (r : Ring) (s : State) : (s.setRing b r).cap c = s.cap c := by
  cases b <;> cases c <;> rfl
@[simp] theorem cap_setGen (b c : Side) (g : Gen) (s : State) : (s.setGen b g).cap c = s.cap c := by
  cases b <;> cases c <;> rfl
@[simp] theorem emptied_mem (r : Ring) : r.emptied.mem = r.mem := rfl
@[simp] theorem emptied_head (r : Ring) : r.emptied.head = 0 := rfl
@[simp] theorem emptied_tail (r : Ring) : r.emptied.tail = 0 := rfl
@[simp] theorem emptied_count (r : Ring) : r.emptied.count = 0 := rfl
@[simp] theorem emptied_stray (r : Ring) : r.emptied.stray = r.stray := rfl
@[simp] theorem off_act : Gen.off.act = false := rfl
@[simp] theorem off_cnt : Gen.off.cnt = 0 := rfl

/-! ## The input levels: no update of the block's state changes them -/

theorem input_congr {s t : State} (h : t.inputs = s.inputs) : t.input = s.input := by simp [State.input, h]

theorem inputAt_congr {s t : State} (h : t.inputs = s.inputs) (k : Nat) : t.inputAt k = s.inputAt k := by
  simp [State.inputAt, h]

theorem rx_i_congr {s t : State} (h : t.inputs = s.inputs) : t.rx_i = s.rx_i := by simp [State.rx_i, input_congr h]

theorem fall_congr {s t : State} (h : t.inputs = s.inputs) (hp : t.rx_prev = s.rx_prev) : t.fall = s.fall := by
  simp [State.fall, rx_i_congr h, hp]

/-- This cycle's levels are those 0 cycles from now. -/
theorem inputAt_zero (s : State) : s.inputAt 0 = s.input := by
  cases h : s.inputs <;> simp [State.inputAt, State.input, h]

/-- One cycle later every level is one cycle nearer. -/
theorem inputAt_tail {s t : State} (h : t.inputs = s.inputs.tail) (k : Nat) : t.inputAt k = s.inputAt (k + 1) := by
  cases hs : s.inputs <;> simp [State.inputAt, h, hs]

@[simp] theorem setRing_input (b : Side) (s : State) (r : Ring) : (s.setRing b r).input = s.input := input_congr (by simp)
@[simp] theorem setRing_rx_i (b : Side) (s : State) (r : Ring) : (s.setRing b r).rx_i = s.rx_i := rx_i_congr (by simp)
@[simp] theorem setGen_input (b : Side) (s : State) (g : Gen) : (s.setGen b g).input = s.input := input_congr (by simp)
@[simp] theorem setGen_rx_i (b : Side) (s : State) (g : Gen) : (s.setGen b g).rx_i = s.rx_i := rx_i_congr (by simp)
@[simp] theorem noteLevel_input (s : State) : s.noteLevel.input = s.input := rfl
@[simp] theorem noteLevel_rx_i (s : State) : s.noteLevel.rx_i = s.rx_i := rfl
@[simp] theorem initBlock_input (s : State) : s.initBlock.input = s.input := rfl
@[simp] theorem initBlock_rx_i (s : State) : s.initBlock.rx_i = s.rx_i := rfl
@[simp] theorem sampleBit_input (s : State) : s.sampleBit.input = s.input := rfl
@[simp] theorem sampleBit_rx_i (s : State) : s.sampleBit.rx_i = s.rx_i := rfl
@[simp] theorem raiseIllegalCommand_input (s : State) : s.raiseIllegalCommand.input = s.input := rfl
@[simp] theorem raiseIllegalCommand_rx_i (s : State) : s.raiseIllegalCommand.rx_i = s.rx_i := rfl
@[simp] theorem respond_input (s : State) (d : Byte) (f : Bool) : (s.respond d f).input = s.input := rfl
@[simp] theorem respond_rx_i (s : State) (d : Byte) (f : Bool) : (s.respond d f).rx_i = s.rx_i := rfl
@[simp] theorem withInput_input (s : State) (x : Input) : (s.withInput x).input = x := rfl

end Sys2Proof.Machine
end

