-- ==== Sys2Proof/Laws/Ring.lean ====
section
/-! SUPPORT. What RB_PUT and RB_GET can do, once each (40_ringbuffer.md R80, R81), on a buffer and on a state; and that they
keep the invariants of 10_state.md R27 and the canonical form of storage. -/

namespace Sys2Proof.Machine

/-- Everything `RB_PUT` can do. -/
theorem Ring.put_cases {b : Side} {cap : Nat} {v : Byte} {r q : Ring} (h : Ring.put b cap v r = q) :
    (r.count < cap ∧
      q = { mem := memWrite b cap r.head v r, head := nextSlot cap r.head, tail := r.tail, count := r.count + 1,
            stray := nextStray cap r.head r }) ∨
    (cap ≤ r.count ∧ q = r) := by
  unfold Ring.put at h
  by_cases hc : r.count < cap
  · exact .inl ⟨hc, by simpa [hc] using h.symm⟩
  · exact .inr ⟨by omega, by simpa [hc] using h.symm⟩

/-- A put into a buffer with room, whose head is a slot. -/
theorem Ring.put_room {cap : Nat} {r : Ring} (b : Side) (v : Byte) (hc : r.count < cap) (hh : r.head < cap) :
    Ring.put b cap v r =
      { r with mem := Memory.write r.mem r.head v, head := nextSlot cap r.head, count := r.count + 1 } := by
  simp [Ring.put, hc, memWrite_of_lt hh, nextStray_of_lt hh]

/-- A put into a full buffer drops the new byte. -/
theorem Ring.put_full {cap : Nat} {r : Ring} (b : Side) (v : Byte) (hc : cap ≤ r.count) : Ring.put b cap v r = r := by
  simp [Ring.put, Nat.not_lt.mpr hc]

/-- The bytes a put leaves: the slot stored to takes the new one, if the buffer has room and it is a slot. -/
theorem Ring.read_put {b : Side} {cap : Nat} {v : Byte} {r : Ring} (hm : r.mem.wf = true) (j : Nat) :
    Memory.read (Ring.put b cap v r).mem j =
      if r.count < cap ∧ slotStored b cap r.head r < cap ∧ j = slotStored b cap r.head r then v
      else Memory.read r.mem j := by
  obtain ⟨hc, hq⟩ | ⟨hc, hq⟩ := Ring.put_cases (rfl : Ring.put b cap v r = _)
  · simp [hq, hc, memRead_memWrite hm]
  · simp [hq, Nat.not_lt.mpr hc]

/-- Everything `RB_GET` can do. -/
theorem Ring.get_cases {b : Side} {cap : Nat} {e : Byte} {r q : Ring} {vo : Byte × Bool}
    (h : Ring.get b cap e r = (vo, q)) :
    (0 < r.count ∧ vo = (memRead b cap r.tail r, true) ∧
      q = { r with tail := nextSlot cap r.tail, count := r.count - 1, stray := nextStray cap r.tail r }) ∨
    (r.count = 0 ∧ vo = (e, false) ∧ q = r) := by
  unfold Ring.get at h
  by_cases hc : 0 < r.count
  · simp only [hc, if_true] at h
    cases h
    exact .inl ⟨hc, rfl, rfl⟩
  · simp only [hc, if_false] at h
    cases h
    exact .inr ⟨by omega, rfl, rfl⟩

/-- A get from a buffer that holds a byte, whose tail is a slot. -/
theorem Ring.get_byte {cap : Nat} {r : Ring} (b : Side) (e : Byte) (hc : 0 < r.count) (ht : r.tail < cap) :
    Ring.get b cap e r =
      ((Memory.read r.mem r.tail, true), { r with tail := nextSlot cap r.tail, count := r.count - 1 }) := by
  simp [Ring.get, hc, memRead_of_lt ht, nextStray_of_lt ht]

/-- A get from an empty buffer. -/
theorem Ring.get_empty {cap : Nat} {r : Ring} (b : Side) (e : Byte) (hc : r.count = 0) :
    Ring.get b cap e r = ((e, false), r) := by
  simp [Ring.get, hc]

/-- The next slot is a slot. -/
theorem nextSlot_lt {cap : Nat} (h : 0 < cap) (x : Nat) : nextSlot cap x < cap := Nat.mod_lt _ h

/-- `RB_PUT` keeps the invariants of R27. -/
theorem Ring.put_wf {b : Side} {cap : Nat} {v : Byte} {r q : Ring} (h : Ring.put b cap v r = q) (hr : r.Wf cap) : q.Wf cap := by
  obtain ⟨hc, rfl⟩ | ⟨-, rfl⟩ := Ring.put_cases h
  · refine ⟨hc, nextSlot_lt (by omega) _, hr.tail_lt, ?_⟩
    simp only [nextSlot, hr.head_eq, Nat.mod_add_mod, Nat.add_assoc]
  · exact hr

/-- `RB_GET` keeps the invariants of R27. -/
theorem Ring.get_wf {b : Side} {cap : Nat} {e : Byte} {r q : Ring} {vo : Byte × Bool} (h : Ring.get b cap e r = (vo, q))
    (hr : r.Wf cap) : q.Wf cap := by
  obtain ⟨hc, -, rfl⟩ | ⟨-, -, rfl⟩ := Ring.get_cases h
  · refine ⟨Nat.le_trans (Nat.sub_le _ _) hr.count_le, hr.head_lt, nextSlot_lt (Nat.zero_lt_of_lt hr.tail_lt) _, ?_⟩
    have hsum : r.tail + 1 + (r.count - 1) = r.tail + r.count := by omega
    simp only [nextSlot, Nat.mod_add_mod, hsum, hr.head_eq]
  · exact hr

/-- An emptied buffer meets R27 where a slot exists. -/
theorem Ring.emptied_wf {cap : Nat} (h : 0 < cap) (r : Ring) : r.emptied.Wf cap :=
  ⟨Nat.zero_le _, h, h, by simp⟩

/-- `RB_PUT` keeps the canonical form of storage. -/
theorem Ring.put_mem_wf {b : Side} {cap : Nat} {v : Byte} {r q : Ring} (h : Ring.put b cap v r = q) (hm : r.mem.wf = true) :
    q.mem.wf = true := by
  obtain ⟨-, rfl⟩ | ⟨-, rfl⟩ := Ring.put_cases h
  · exact memWrite_wf hm _ _ _ _
  · exact hm

/-- `RB_GET` writes no slot. -/
theorem Ring.get_mem {b : Side} {cap : Nat} {e : Byte} {r q : Ring} {vo : Byte × Bool} (h : Ring.get b cap e r = (vo, q)) :
    q.mem = r.mem := by
  obtain ⟨-, -, rfl⟩ | ⟨-, -, rfl⟩ := Ring.get_cases h <;> rfl

/-- `RB_GET(B)` on a state, from what it does on the buffer. -/
theorem rbGet_of_get {b : Side} {s : State} {vo : Byte × Bool} {q : Ring}
    (h : Ring.get b (s.cap b) s.par.EMPTY_VALUE (s.ring b) = (vo, q)) : s.rbGet b = (vo, s.setRing b q) := by
  simp [State.rbGet, h]

end Sys2Proof.Machine
end

