-- ==== Sys2Proof/Laws/Exec.lean ====
section
/-! SUPPORT. What sequencing, the timer step and each instruction's meaning can do: one lemma each, "if it answers a next state,
then it is this one". -/

namespace Sys2Proof.Machine

/-! ## Sequencing -/

@[simp] theorem andThen_next (s : State) (f : State → Host.Outcome State Fault Refusal) : andThen (.next s) f = f s := rfl

@[simp] theorem andThen_fault (r : Fault) (f : State → Host.Outcome State Fault Refusal) :
    andThen (.fault r) f = .fault r := rfl

@[simp] theorem andThen_refused (r : Refusal) (f : State → Host.Outcome State Fault Refusal) :
    andThen (.refused r) f = .refused r := rfl

/-- A sequence answers a next state exactly when both parts do. -/
theorem andThen_eq_next {o : Host.Outcome State Fault Refusal} {f : State → Host.Outcome State Fault Refusal} {t : State} :
    andThen o f = .next t ↔ ∃ u, o = .next u ∧ f u = .next t := by
  cases o <;> simp

/-- Next states are equal only if the states are. -/
theorem next_inj {s t : State} (h : (Host.Outcome.next s : Host.Outcome State Fault Refusal) = .next t) : s = t := by
  cases h; rfl

/-! ## The timing engine -/

/-- Everything `TIMER_STEP(G)` can do (R91). -/
theorem timerStep_cases (b : Side) (s : State) :
    ((s.gen b).act = false ∧ s.timerStep b = (s, false)) ∨
    ((s.gen b).act = true ∧ (s.gen b).cnt = 1 ∧ s.timerStep b = (s.setGen b { act := true, cnt := s.par.P }, true)) ∨
    ((s.gen b).act = true ∧ (s.gen b).cnt ≠ 1 ∧
      s.timerStep b = (s.setGen b { act := true, cnt := decInWidth s.par.CW (s.gen b).cnt }, false)) := by
  unfold State.timerStep
  by_cases ha : (s.gen b).act = true
  · by_cases hc : (s.gen b).cnt = 1
    · exact .inr (.inl ⟨ha, hc, by simp [ha, hc]⟩)
    · exact .inr (.inr ⟨ha, hc, by simp [ha, hc]⟩)
  · exact .inl ⟨by simpa using ha, by simp [ha]⟩

/-- An inactive generator does nothing. -/
theorem timerStep_off {b : Side} {s : State} (h : (s.gen b).act = false) : s.timerStep b = (s, false) := by
  simp [State.timerStep, h]

/-- An active generator with count 1 reloads and fires. -/
theorem timerStep_fire {b : Side} {s : State} (h : (s.gen b).act = true) (h1 : (s.gen b).cnt = 1) :
    s.timerStep b = (s.setGen b { act := true, cnt := s.par.P }, true) := by
  simp [State.timerStep, h, h1]

/-- An active generator with any count above 1 of its `CW` bits counts down by one. -/
theorem timerStep_down {b : Side} {s : State} (h : (s.gen b).act = true) (h2 : 2 ≤ (s.gen b).cnt)
    (hw : (s.gen b).cnt < 2 ^ s.par.CW) :
    s.timerStep b = (s.setGen b { act := true, cnt := (s.gen b).cnt - 1 }, false) := by
  have hne : (s.gen b).cnt ≠ 1 := by omega
  simp [State.timerStep, h, hne, decInWidth_of_pos (by omega : 0 < (s.gen b).cnt) hw]

/-- An active generator with a count in `[2, P]` counts down by one. -/
theorem timerStep_count {b : Side} {s : State} (h : (s.gen b).act = true) (h2 : 2 ≤ (s.gen b).cnt)
    (hP : (s.gen b).cnt ≤ s.par.P) : s.timerStep b = (s.setGen b { act := true, cnt := (s.gen b).cnt - 1 }, false) :=
  timerStep_down h h2 (Nat.lt_of_le_of_lt hP s.par.P_lt_two_pow_CW)

/-! ## The meanings -/

theorem execGetByte_next {s t : State} (h : execGetByte s = .next t) :
    ∃ vo q, Ring.get .rx s.par.RX_CAP s.par.EMPTY_VALUE s.rxb = (vo, q) ∧ t = (s.setRing .rx q).respond vo.1 vo.2 :=
  ⟨_, _, rfl, (next_inj h).symm⟩

theorem execPutByte_next {d : Byte} {s t : State} (h : execPutByte d s = .next t) :
    ∃ q, Ring.put .tx s.par.TX_CAP d s.txb = q ∧
      t = (if s.txg.act then s.setRing .tx q
        else (s.setRing .tx q).setGen .tx { act := true, cnt := s.par.TX_OFF }).respond 0x00#8 false :=
  ⟨_, rfl, (next_inj h).symm⟩

/-- RX_EDGE always completes: it is taken, or it has no effect. -/
theorem execRxEdge_cases (st : Fsm) (s : State) :
    (st = .idle ∧ s.fall = true ∧ s.edge_en = true ∧ s.rx_state = .idle ∧
      execRxEdge st s = .next { s.setGen .rx { act := true, cnt := s.par.RX_OFF } with rx_state := .start, edge_en := false }) ∨
    (¬(st = .idle ∧ s.fall = true ∧ s.edge_en = true ∧ s.rx_state = .idle) ∧ execRxEdge st s = .next s) := by
  unfold execRxEdge
  by_cases hc : st = .idle ∧ s.fall = true ∧ s.edge_en = true ∧ s.rx_state = .idle
  · exact .inl ⟨hc.1, hc.2.1, hc.2.2.1, hc.2.2.2, by simp [hc, arm_eq]⟩
  · exact .inr ⟨hc, by simp only [hc, if_false]⟩

theorem execRxTickBit_next {s t : State} (h : execRxTickBit s = .next t) :
    (s.rx_idx ≠ 7#3 ∧ t = s.sampleBit) ∨
    (s.rx_idx = 7#3 ∧ ∃ q, Ring.put .rx s.par.RX_CAP (setBit s.rx_shift s.rx_idx s.rx_i) s.rxb = q ∧
      t = { s.sampleBit.setRing .rx q with rx_state := .stop }) := by
  have ht := (next_inj h).symm
  by_cases hi : s.rx_idx = 7#3
  · exact .inr ⟨hi, _, rfl, ht.trans (if_pos hi)⟩
  · exact .inl ⟨hi, ht.trans (if_neg hi)⟩

theorem execTxTickStart_next {s t : State} (h : execTxTickStart s = .next t) :
    ∃ vo q, Ring.get .tx s.par.TX_CAP s.par.EMPTY_VALUE s.txb = (vo, q) ∧
      t = { s.setRing .tx q with tx_o := false, tx_shift := vo.1, tx_idx := 0#3, tx_state := .bit } :=
  ⟨_, _, rfl, (next_inj h).symm⟩

theorem execTxTickStop_cases (s : State) :
    (s.txb.count = 0 ∧ execTxTickStop s = .next { s.setGen .tx Gen.off with tx_o := true, tx_state := .idle }) ∨
    (s.txb.count ≠ 0 ∧ execTxTickStop s = .next { s with tx_o := true, tx_state := .start }) := by
  unfold execTxTickStop
  by_cases hc : s.txb.count = 0
  · exact .inl ⟨hc, by simp [State.rbEmpty, hc, disarm_eq]⟩
  · exact .inr ⟨hc, by simp [State.rbEmpty, hc]⟩

/-- No instruction changes the input levels of this cycle or of a later one. -/
theorem exec_inputs {i : Instr} {s t : State} (h : exec i s = .next t) : t.inputs = s.inputs := by
  cases i with
  | getByte =>
    obtain ⟨_, _, _, rfl⟩ := execGetByte_next h
    simp
  | putByte d =>
    obtain ⟨_, _, rfl⟩ := execPutByte_next h
    split <;> simp
  | rxEdge st =>
    obtain ⟨-, -, -, -, he⟩ | ⟨-, he⟩ := execRxEdge_cases st s <;> cases he.symm.trans h <;> simp
  | rxTickBit =>
    obtain ⟨-, rfl⟩ | ⟨-, _, -, rfl⟩ := execRxTickBit_next h <;> simp
  | txTickStart =>
    obtain ⟨_, _, _, rfl⟩ := execTxTickStart_next h
    simp
  | txTickStop =>
    obtain ⟨-, he⟩ | ⟨-, he⟩ := execTxTickStop_cases s <;> cases he.symm.trans h <;> simp
  | _ => cases h; rfl

/-- No instruction changes the parameters (R4). -/
theorem exec_par {i : Instr} {s t : State} (h : exec i s = .next t) : t.par = s.par := by
  cases i with
  | getByte =>
    obtain ⟨_, _, _, rfl⟩ := execGetByte_next h
    simp
  | putByte d =>
    obtain ⟨_, _, rfl⟩ := execPutByte_next h
    split <;> simp
  | rxEdge st =>
    obtain ⟨-, -, -, -, he⟩ | ⟨-, he⟩ := execRxEdge_cases st s <;> cases he.symm.trans h <;> simp
  | rxTickBit =>
    obtain ⟨-, rfl⟩ | ⟨-, _, -, rfl⟩ := execRxTickBit_next h <;> simp
  | txTickStart =>
    obtain ⟨_, _, _, rfl⟩ := execTxTickStart_next h
    simp
  | txTickStop =>
    obtain ⟨-, he⟩ | ⟨-, he⟩ := execTxTickStop_cases s <;> cases he.symm.trans h <;> simp
  | _ => cases h; rfl

/-- Every instruction completes, in every state (70_reset_and_hazards.md R181). -/
theorem exec_completes (i : Instr) (s : State) : ∃ t, exec i s = .next t := by
  cases i with
  | rxEdge st =>
    obtain ⟨-, -, -, -, he⟩ | ⟨-, he⟩ := execRxEdge_cases st s
    · exact ⟨_, he⟩
    · exact ⟨_, he⟩
  | txTickStop =>
    obtain ⟨-, he⟩ | ⟨-, he⟩ := execTxTickStop_cases s
    · exact ⟨_, he⟩
    · exact ⟨_, he⟩
  | _ => exact ⟨_, rfl⟩

/-- No instruction is refused. -/
theorem exec_not_refused (i : Instr) (s : State) (r : Refusal) : exec i s ≠ .refused r := by
  obtain ⟨t, ht⟩ := exec_completes i s
  simp [ht]

end Sys2Proof.Machine
end

