-- ==== Sys2Proof/Laws/Cycle.lean ====
section
/-! SUPPORT. What one cycle can do: the inversion of each sub-step and of the step (46_cycle_step.md R150, R151), and the
arithmetic of runs. -/

namespace Sys2Proof.Machine

/-- Everything sub-step 1 can do. -/
theorem rxSubstep_cases (s : State) :
    (s.rxg.act = false ∧ rxSubstep s = .next s) ∨
    (s.rxg.act = true ∧ s.rxg.cnt = 1 ∧
      rxSubstep s = exec (rxTickOf s.rx_state) (s.setGen .rx { act := true, cnt := s.par.P })) ∨
    (s.rxg.act = true ∧ s.rxg.cnt ≠ 1 ∧
      rxSubstep s = .next (s.setGen .rx { act := true, cnt := decInWidth s.par.CW s.rxg.cnt })) := by
  obtain ⟨h, he⟩ | ⟨h, h1, he⟩ | ⟨h, h1, he⟩ := timerStep_cases .rx s
  · exact .inl ⟨h, by simp [rxSubstep, he]⟩
  · exact .inr (.inl ⟨h, h1, by simp [rxSubstep, he]⟩)
  · exact .inr (.inr ⟨h, h1, by simp [rxSubstep, he]⟩)

/-- Everything sub-step 3 can do. -/
theorem txSubstep_cases (s : State) :
    (s.txg.act = false ∧ txSubstep s = .next s) ∨
    (s.txg.act = true ∧ s.txg.cnt = 1 ∧
      txSubstep s = exec (txTickOf s.tx_state) (s.setGen .tx { act := true, cnt := s.par.P })) ∨
    (s.txg.act = true ∧ s.txg.cnt ≠ 1 ∧
      txSubstep s = .next (s.setGen .tx { act := true, cnt := decInWidth s.par.CW s.txg.cnt })) := by
  obtain ⟨h, he⟩ | ⟨h, h1, he⟩ | ⟨h, h1, he⟩ := timerStep_cases .tx s
  · exact .inl ⟨h, by simp [txSubstep, he]⟩
  · exact .inr (.inl ⟨h, h1, by simp [txSubstep, he]⟩)
  · exact .inr (.inr ⟨h, h1, by simp [txSubstep, he]⟩)

/-- Everything sub-step 2 can do: the edge is taken or it is not, and `rx_prev` follows the line (R101, R102, R104). -/
theorem edgeSubstep_cases (s : State) :
    (s.fall = true ∧ s.edge_en = true ∧ s.rx_state = .idle ∧
      edgeSubstep s = .next { s.setGen .rx { act := true, cnt := s.par.RX_OFF } with
        rx_state := .start, edge_en := false, rx_prev := s.rx_i }) ∨
    (¬(s.fall = true ∧ s.edge_en = true ∧ s.rx_state = .idle) ∧ edgeSubstep s = .next s.noteLevel) := by
  unfold edgeSubstep
  by_cases hf : s.fall = true
  · obtain ⟨h1, -, h3, h4, he⟩ | ⟨hn, he⟩ := execRxEdge_cases s.rx_state s
    · refine .inl ⟨hf, h3, h4, ?_⟩
      simp only [hf, if_true, exec, he, andThen_next]
      exact congrArg _ (by simp [State.noteLevel, State.rx_i, State.input])
    · refine .inr ⟨fun hc => hn ⟨hc.2.2, hf, hc.2.1, hc.2.2⟩, ?_⟩
      simp only [hf, if_true, exec, he, andThen_next]
  · exact .inr ⟨fun hc => hf hc.1, by simp [hf]⟩

/-- Everything sub-step 4 can do. -/
theorem hostSubstep_cases (s : State) :
    (s.input.cmd_valid = false ∧ hostSubstep s = .next s) ∨
    (s.input.cmd_valid = true ∧ ∃ i, decodeCmd s.input.cmd = .ok i ∧ hostSubstep s = exec i s) ∨
    (s.input.cmd_valid = true ∧ (∃ r, decodeCmd s.input.cmd = .error r) ∧
      hostSubstep s = .next s.raiseIllegalCommand) := by
  unfold hostSubstep
  by_cases hv : s.input.cmd_valid = true
  · cases hd : decodeCmd s.input.cmd with
    | ok i => exact .inr (.inl ⟨hv, i, rfl, by simp [hv]⟩)
    | error r => exact .inr (.inr ⟨hv, ⟨r, rfl⟩, by simp [hv]⟩)
  · exact .inl ⟨by simpa using hv, by simp [hv]⟩

/-- Everything a step that answers a next state can have done. -/
theorem step_next {s t : State} (h : step s = .next t) :
    s.par.legal = true ∧
    ((s.input.rst = true ∧ t = resetCycle s) ∨
      (s.input.rst = false ∧ ∃ a b c d, rxSubstep s = .next a ∧ edgeSubstep a = .next b ∧ txSubstep b = .next c ∧
        hostSubstep c = .next d ∧ t = d.endCycle)) := by
  simp only [step, clockCycle] at h
  by_cases hl : s.par.legal = true
  · refine ⟨hl, ?_⟩
    by_cases hr : s.input.rst = true
    · simp only [hl, hr, if_true] at h
      exact .inl ⟨hr, (next_inj h).symm⟩
    · simp only [hl, hr, if_true, runCycle, tickSide, Bool.false_eq_true, if_false, andThen_eq_next] at h
      obtain ⟨d, ⟨c, ⟨b, ⟨a, ha, hb⟩, hc⟩, hd⟩, he⟩ := h
      exact .inr ⟨by simpa using hr, a, b, c, d, ha, hb, hc, hd, (next_inj he).symm⟩
  · simp [hl] at h

/-- A step without reset whose four sub-steps answer. -/
theorem step_of_substeps {s a b c d : State} (hl : s.par.legal = true) (hr : s.input.rst = false)
    (ha : rxSubstep s = .next a) (hb : edgeSubstep a = .next b) (hc : txSubstep b = .next c)
    (hd : hostSubstep c = .next d) : step s = .next d.endCycle := by
  simp [step, clockCycle, hl, hr, runCycle, tickSide, ha, hb, hc, hd]

/-- A reset step. -/
theorem step_of_reset {s : State} (hl : s.par.legal = true) (hr : s.input.rst = true) :
    step s = .next (resetCycle s) := by
  simp [step, clockCycle, hl, hr]

/-- No sub-step changes the input levels. -/
theorem rxSubstep_inputs {s t : State} (h : rxSubstep s = .next t) : t.inputs = s.inputs := by
  obtain ⟨-, he⟩ | ⟨-, -, he⟩ | ⟨-, -, he⟩ := rxSubstep_cases s
  · cases he.symm.trans h; rfl
  · simpa using exec_inputs (he.symm.trans h)
  · cases he.symm.trans h; simp

theorem edgeSubstep_inputs {s t : State} (h : edgeSubstep s = .next t) : t.inputs = s.inputs := by
  obtain ⟨-, -, -, he⟩ | ⟨-, he⟩ := edgeSubstep_cases s <;> cases he.symm.trans h <;> simp

theorem txSubstep_inputs {s t : State} (h : txSubstep s = .next t) : t.inputs = s.inputs := by
  obtain ⟨-, he⟩ | ⟨-, -, he⟩ | ⟨-, -, he⟩ := txSubstep_cases s
  · cases he.symm.trans h; rfl
  · simpa using exec_inputs (he.symm.trans h)
  · cases he.symm.trans h; simp

theorem hostSubstep_inputs {s t : State} (h : hostSubstep s = .next t) : t.inputs = s.inputs := by
  obtain ⟨-, he⟩ | ⟨-, i, -, he⟩ | ⟨-, -, he⟩ := hostSubstep_cases s
  · cases he.symm.trans h; rfl
  · exact exec_inputs (he.symm.trans h)
  · cases he.symm.trans h; simp

/-- Each step moves the input levels one cycle on. -/
theorem step_inputs {s t : State} (h : step s = .next t) : t.inputs = s.inputs.tail := by
  obtain ⟨-, ⟨-, rfl⟩ | ⟨-, a, b, c, d, ha, hb, hc, hd, rfl⟩⟩ := step_next h
  · rfl
  · simp [hostSubstep_inputs hd, txSubstep_inputs hc, edgeSubstep_inputs hb, rxSubstep_inputs ha]

/-! ## Runs -/

@[simp] theorem cycles_zero (s : State) : cycles 0 s = .next s := rfl

theorem cycles_succ (n : Nat) (s : State) : cycles (n + 1) s = andThen (step s) (cycles n) := by
  cases h : step s with
  | next t =>
    have h' : Sys2Proof.core.step s = .next t := h
    simp only [cycles, Host.Core.run, h']
    rfl
  | fault r =>
    have h' : Sys2Proof.core.step s = .fault r := h
    simp only [cycles, Host.Core.run, h']
    rfl
  | refused r =>
    have h' : Sys2Proof.core.step s = .refused r := h
    simp only [cycles, Host.Core.run, h']
    rfl

theorem cycles_one (s : State) : cycles 1 s = step s := by
  rw [cycles_succ]
  cases step s <;> rfl

/-- A run of `m + n` cycles is a run of `m` and then one of `n`. -/
theorem cycles_add (m n : Nat) (s : State) : cycles (m + n) s = andThen (cycles m s) (cycles n) := by
  induction m generalizing s with
  | zero => simp
  | succ m ih =>
    rw [Nat.succ_add, cycles_succ, cycles_succ]
    cases step s with
    | next t => simp [ih]
    | fault r => rfl
    | refused r => rfl

/-- One more cycle at the end of a run. -/
theorem cycles_snoc {n : Nat} {s t : State} (h : cycles n s = .next t) : cycles (n + 1) s = step t := by
  rw [cycles_add, h, andThen_next, cycles_one]

end Sys2Proof.Machine
end

