-- ==== Sys2Proof/Laws/HostProgram.lean ====
section
/-! SUPPORT. What running a host program line by line can do (30_encoding.md R67). -/

namespace Sys2Proof.Machine

/-- A program whose first lines complete goes on with the rest. -/
theorem runLines_append {fuel : Nat} {before : HostProgram} {s t : State}
    (h : runLines fuel before s = .next (t, true)) (after : HostProgram) :
    runLines fuel (before ++ after) s = runLines fuel after t := by
  induction before generalizing s with
  | nil =>
    cases h
    rfl
  | cons l ls ih =>
    simp only [List.cons_append, runLines] at h ⊢
    cases hl : runLine fuel l s with
    | next p =>
      obtain ⟨u, done⟩ := p
      cases done with
      | true =>
        simp only [hl] at h
        exact ih h
      | false =>
        rw [hl] at h
        cases h
    | fault r => exact nomatch r
    | refused r =>
      rw [hl] at h
      cases h

/-- An ill-formed line is refused, whatever the fuel and the state are. -/
theorem runLine_illFormed {l : Line} (h : l.wellFormed = false) (fuel : Nat) (s : State) :
    runLine fuel l s = .refused .illFormedLine := by
  simp [runLine, h]

end Sys2Proof.Machine
end

