-- ==== Sys2Proof/Laws/PerInstr.lean ====
section
/-! SUPPORT. One statement about every instruction as syntax, a lemma a constructor: `InFormat`, that its code lies in the format
of its kind, with the reserved and zero fields of 30_encoding.md R60 and R66. -/

namespace Sys2Proof.Laws

/-- A command's code is a CMD16 word with `rsv = 0`; an event's is an EVT8 label with `lbl[3:2] = 0b00`. -/
def codeInFormat (isCommand : Bool) : Code → Bool
  | .cmd16 w => isCommand && decide (rsvField w = 0x0#4) && decide (opField w ≤ 0x8#4)
  | .evt8 l => !isCommand && decide (l.extractLsb' 2 2 = 0b00#2)

/-- The code of `i` lies in the format of its kind. -/
def InFormat.Statement (i : Instr) : Prop := codeInFormat i.isCommand (encode i) = true

theorem InFormat.nop : InFormat.Statement .nop := by unfold InFormat.Statement; decide
theorem InFormat.init : InFormat.Statement .init := by unfold InFormat.Statement; decide
theorem InFormat.getByte : InFormat.Statement .getByte := by unfold InFormat.Statement; decide
theorem InFormat.rxEmpty : InFormat.Statement .rxEmpty := by unfold InFormat.Statement; decide
theorem InFormat.txEmpty : InFormat.Statement .txEmpty := by unfold InFormat.Statement; decide
theorem InFormat.putByte (d : Byte) : InFormat.Statement (.putByte d) := by
  revert d
  unfold InFormat.Statement
  decide
theorem InFormat.rxFull : InFormat.Statement .rxFull := by unfold InFormat.Statement; decide
theorem InFormat.txFull : InFormat.Statement .txFull := by unfold InFormat.Statement; decide
theorem InFormat.status : InFormat.Statement .status := by unfold InFormat.Statement; decide
theorem InFormat.rxEdge (st : Fsm) : InFormat.Statement (.rxEdge st) := by
  cases st <;> (unfold InFormat.Statement; decide)
theorem InFormat.rxTickIdle : InFormat.Statement .rxTickIdle := by unfold InFormat.Statement; decide
theorem InFormat.rxTickStart : InFormat.Statement .rxTickStart := by unfold InFormat.Statement; decide
theorem InFormat.rxTickBit : InFormat.Statement .rxTickBit := by unfold InFormat.Statement; decide
theorem InFormat.rxTickStop : InFormat.Statement .rxTickStop := by unfold InFormat.Statement; decide
theorem InFormat.txTickIdle : InFormat.Statement .txTickIdle := by unfold InFormat.Statement; decide
theorem InFormat.txTickStart : InFormat.Statement .txTickStart := by unfold InFormat.Statement; decide
theorem InFormat.txTickBit : InFormat.Statement .txTickBit := by unfold InFormat.Statement; decide
theorem InFormat.txTickStop : InFormat.Statement .txTickStop := by unfold InFormat.Statement; decide

end Sys2Proof.Laws
end

