-- ==== Sys2Proof/Tests/Slice0.lean ====
section
/-! SUPPORT. The model's own tests: the well-formedness smoke, every constructor's decoding from words written out from
30_encoding.md, one or two steps an instruction with the results of the rules' examples and of 95_test_vectors.md, and for every
statement of Certificates/Slice0/Obligations.lean that has hypotheses a named witness that meets them. -/

namespace Sys2Proof.Tests

open Sys2Proof Sys2Proof.Machine

/-! ## Small states -/

/-- The next state of an outcome. -/
def nextOf : Host.Outcome State Fault Refusal → Option State
  | .next s => some s
  | .fault _ => none
  | .refused _ => none

/-- Parameter set S4 of 95_test_vectors.md, after reset. -/
def s4 : State := State.resetOf (Params.defaults 4)

/-- The smallest parameter set R7 and R4 admit. -/
def tiny : Params := { P := 2, RX_OFF := 1, TX_OFF := 1, RX_CAP := 1, TX_CAP := 1, EMPTY_VALUE := 0xEE#8 }

/-- A block of the smallest parameters, after reset. -/
def t1 : State := State.resetOf tiny

/-- `s` with these levels on its ports in this cycle and idle ports after it. -/
def onPorts (rst rx valid : Bool) (cmd : CmdWord) (s : State) : State :=
  { s with inputs := [{ rst := rst, rx_i := rx, cmd_valid := valid, cmd := cmd }] }

/-- `s` in a cycle that presents `cmd`, with the line high. -/
def issuing (cmd : CmdWord) (s : State) : State := onPorts false true true cmd s

/-- `s` in a cycle with the line low and no command. -/
def lineLow (s : State) : State := onPorts false false false 0x0000#16 s

/-- A ring that holds 0x41 and then 0xA5. -/
def twoBytes : Ring := { mem := [(0, 0x41#8), (1, 0xA5#8)], head := 2, tail := 0, count := 2, stray := 0 }

/-- A ring of one slot that holds 0x7E. -/
def fullOne : Ring := { mem := [(0, 0x7E#8)], head := 0, tail := 0, count := 1, stray := 0 }

/-- A transmitter in the middle of a byte, with two bytes queued. -/
def sending : State :=
  { s4 with tx_state := .bit, tx_idx := 6#3, tx_shift := 0x41#8, tx_o := false, txg := { act := true, cnt := 1 },
            txb := twoBytes }

/-- A receiver about to take its last bit. -/
def receiving : State :=
  { s4 with rx_state := .bit, rx_idx := 7#3, rx_shift := 0x41#8, edge_en := false, rxg := { act := true, cnt := 1 } }

/-! ## Well-formedness smoke: one ill-formed term for each check -/

theorem test_legal_defaults : (Params.defaults 4).legal = true ∧ tiny.legal = true ∧ Params.ofReset.legal = true := by decide
theorem test_refuses_P : { tiny with P := 1 }.legal = false := by decide
theorem test_refuses_RX_OFF_low : { tiny with RX_OFF := 0 }.legal = false := by decide
theorem test_refuses_RX_OFF_high : { tiny with RX_OFF := 2 }.legal = false := by decide
theorem test_refuses_TX_OFF_low : { tiny with TX_OFF := 0 }.legal = false := by decide
theorem test_refuses_TX_OFF_high : { tiny with TX_OFF := 3 }.legal = false := by decide
theorem test_refuses_RX_CAP : { tiny with RX_CAP := 0 }.legal = false := by decide
theorem test_refuses_TX_CAP : { tiny with TX_CAP := 0 }.legal = false := by decide
theorem test_refuses_event_line : Line.wellFormed (.command (.rxEdge .idle)) = false ∧
    Line.wellFormed (.command .txTickStop) = false ∧ Line.wellFormed (.command .getByte) = true := by decide
theorem test_refuses_illegal_word_line : Line.wellFormed (.word 0x9000#16) = false ∧
    Line.wellFormed (.word 0x5100#16) = false ∧ Line.wellFormed (.word 0x2080#16) = false ∧
    Line.wellFormed (.word 0x50FF#16) = true := by decide
theorem test_refuses_illegal_program : HostProgram.wellFormed [.wait 3, .word 0x1100#16] = false := by decide
theorem test_widths : (Params.defaults 4).CW = 3 ∧ (Params.defaults 4).RIW = 7 ∧ (Params.defaults 4).RCW = 8 ∧
    (Params.defaults 4).TIW = 5 ∧ (Params.defaults 4).TCW = 6 ∧ tiny.RIW = 1 ∧ tiny.TCW = 1 := by decide

/-! ## Decoding: words and labels written out from R61 and R66 -/

theorem test_decode_nop : decode (.cmd16 0b0000000000000000#16) = .ok .nop := by decide
theorem test_decode_init : decode (.cmd16 0b0001000000000000#16) = .ok .init := by decide
theorem test_decode_getByte : decode (.cmd16 0b0010000000000000#16) = .ok .getByte := by decide
theorem test_decode_rxEmpty : decode (.cmd16 0b0011000000000000#16) = .ok .rxEmpty := by decide
theorem test_decode_txEmpty : decode (.cmd16 0b0100000000000000#16) = .ok .txEmpty := by decide
theorem test_decode_putByte : decode (.cmd16 0b0101000001000001#16) = .ok (.putByte 0x41#8) ∧
    decode (.cmd16 0b0101000010000000#16) = .ok (.putByte 0x80#8) := by decide
theorem test_decode_rxFull : decode (.cmd16 0b0110000000000000#16) = .ok .rxFull := by decide
theorem test_decode_txFull : decode (.cmd16 0b0111000000000000#16) = .ok .txFull := by decide
theorem test_decode_status : decode (.cmd16 0b1000000000000000#16) = .ok .status := by decide
theorem test_decode_rxEdge : decode (.evt8 0b00010000#8) = .ok (.rxEdge .idle) ∧
    decode (.evt8 0b00010001#8) = .ok (.rxEdge .start) ∧ decode (.evt8 0b00010010#8) = .ok (.rxEdge .bit) ∧
    decode (.evt8 0b00010011#8) = .ok (.rxEdge .stop) := by decide
theorem test_decode_rxTick : decode (.evt8 0b00100000#8) = .ok .rxTickIdle ∧
    decode (.evt8 0b00100001#8) = .ok .rxTickStart ∧ decode (.evt8 0b00100010#8) = .ok .rxTickBit ∧
    decode (.evt8 0b00100011#8) = .ok .rxTickStop := by decide
theorem test_decode_txTick : decode (.evt8 0b00110000#8) = .ok .txTickIdle ∧
    decode (.evt8 0b00110001#8) = .ok .txTickStart ∧ decode (.evt8 0b00110010#8) = .ok .txTickBit ∧
    decode (.evt8 0b00110011#8) = .ok .txTickStop := by decide
/-- V-ILL-1, and the words it lists after its table. -/
theorem test_decode_illegal : decode (.cmd16 0x9000#16) = .error .reservedOp ∧
    decode (.cmd16 0xF0FF#16) = .error .reservedOp ∧ decode (.cmd16 0x1100#16) = .error .reservedField ∧
    decode (.cmd16 0x3001#16) = .error .strayData ∧ decode (.cmd16 0x5100#16) = .error .reservedField ∧
    decode (.cmd16 0x2080#16) = .error .strayData ∧ decode (.evt8 0x14#8) = .error .noSuchEvent ∧
    decode (.evt8 0x40#8) = .error .noSuchEvent := by decide
theorem test_decode_table_word : decodeTableWord 16 0x5041 = some (.putByte 0x41#8) ∧
    decodeTableWord 8 0x33 = some .txTickStop ∧ decodeTableWord 16 0x9000 = none ∧ decodeTableWord 8 0x5041 = none ∧
    decodeTableWord 12 0 = none := by decide

/-! ## The host commands -/

/-- R131: the response is cleared, and with it an earlier illegal word's mark (V-ILL-1, cycle 5). -/
theorem test_nop : (nextOf (exec .nop { s4 with rsp_data := 0x77#8, rsp_flag := true, rsp_ill := true })) = some s4 := by decide
/-- The example of R132 (V-FAC-8). -/
theorem test_init : (nextOf (exec .init { sending with txb := { twoBytes with head := 3, count := 3 } })).map
    (fun t => (t.tx_state, t.txg.act, t.tx_o, t.txb.head, t.txb.tail, t.txb.count)) =
      some (.idle, false, true, 0, 0, 0) := by decide
/-- The example of R133. -/
theorem test_getByte : (nextOf (exec .getByte { s4 with rxb := twoBytes })).map
    (fun t => (t.rsp_data, t.rsp_flag, t.rxb.contents 128)) = some (0x41#8, true, [0xA5#8]) := by decide
/-- V-FAC-3, with another EMPTY_VALUE. -/
theorem test_getByte_empty : (nextOf (exec .getByte t1)).map (fun t => (t.rsp_data, t.rsp_flag, t.rxb)) =
    some (0xEE#8, false, Ring.empty) := by decide
/-- V-FAC-1. -/
theorem test_rxEmpty : (nextOf (exec .rxEmpty s4)).map (fun t => t.rsp_flag) = some true ∧
    (nextOf (exec .rxEmpty { s4 with rxb := twoBytes })).map (fun t => t.rsp_flag) = some false := by decide
/-- The example of R135: the only queued byte has been popped. -/
theorem test_txEmpty : (nextOf (exec .txEmpty { sending with txb := Ring.empty })).map
    (fun t => (t.rsp_flag, t.tx_state)) = some (true, .bit) := by decide
/-- The example of R136 (V-FAC-4). -/
theorem test_putByte : (nextOf (exec (.putByte 0x41#8) s4)).map (fun t => (t.txb, t.txg, t.rsp_flag)) =
    some ({ mem := [(0, 0x41#8)], head := 1, tail := 0, count := 1, stray := 0 }, { act := true, cnt := 4 }, false) := by decide
/-- A full buffer drops the new byte, and an active generator is not re-armed (R80, R136). -/
theorem test_putByte_full : (nextOf (exec (.putByte 0x7F#8) { t1 with txb := fullOne, txg := { act := true, cnt := 2 } })).map
    (fun t => (t.txb, t.txg)) = some (fullOne, { act := true, cnt := 2 }) := by decide
/-- R181: a read of a slot that does not exist completes, with a free value for the byte. -/
theorem test_getByte_stray : (nextOf (exec .getByte { t1 with rxb := { fullOne with tail := 1 } })).map
    (fun t => (t.rsp_flag, t.rxb.tail, t.rxb.count, t.rxb.stray)) = some (true, 0, 0, 1) := by decide
/-- R137, with `RX_CAP = 1` (V-RB-4). -/
theorem test_rxFull : (nextOf (exec .rxFull { t1 with rxb := fullOne })).map (fun t => t.rsp_flag) = some true := by decide
/-- R138: V-RB-6 at `N = 32`. -/
theorem test_txFull :
    (nextOf (exec .txFull { s4 with txb := { twoBytes with count := 32 } })).map (fun t => t.rsp_flag) = some true ∧
    (nextOf (exec .txFull { s4 with txb := { twoBytes with count := 31 } })).map (fun t => t.rsp_flag) = some false := by
  decide
/-- V-FAC-1, V-FAC-4 and V-FAC-6. -/
theorem test_status : (nextOf (exec .status s4)).map (fun t => t.rsp_data) = some 0x45#8 ∧
    (nextOf (exec .status { s4 with txb := twoBytes, txg := { act := true, cnt := 3 } })).map (fun t => t.rsp_data) =
      some 0x51#8 ∧
    (nextOf (exec .status { s4 with rxg := { act := true, cnt := 1 }, edge_en := false })).map (fun t => t.rsp_data) =
      some 0x25#8 := by decide
/-- P3, cycle 36: a full transmit buffer reads 0x59. -/
theorem test_status_full : (nextOf (exec .status { s4 with
    txb := { twoBytes with count := 32 }, txg := { act := true, cnt := 3 } })).map (fun t => t.rsp_data) =
      some 0x59#8 := by decide

/-! ## The edge monitor and the bit sampler -/

/-- V-EDGE-1. -/
theorem test_rxEdge : (nextOf (exec (.rxEdge .idle) (lineLow s4))).map (fun t => (t.rx_state, t.rxg, t.edge_en)) =
    some (.start, { act := true, cnt := 2 }, false) := by decide
/-- V-EDGE-3: label 0x12 changes nothing. -/
theorem test_rxEdge_ignored : nextOf (exec (.rxEdge .bit) (lineLow receiving)) = some (lineLow receiving) := by decide
/-- R110. -/
theorem test_rxTickIdle : nextOf (exec .rxTickIdle sending) = some sending := by decide
/-- The example of R111. -/
theorem test_rxTickStart : (nextOf (exec .rxTickStart { receiving with rx_state := .start })).map
    (fun t => (t.rx_idx, t.rx_shift, t.rx_state)) = some (0#3, 0x00#8, .bit) := by decide
/-- The example of R112. -/
theorem test_rxTickBit : (nextOf (exec .rxTickBit { receiving with rx_idx := 6#3, rx_shift := 0x01#8 })).map
    (fun t => (t.rx_shift, t.rx_idx, t.rx_state)) = some (0x41#8, 7#3, .bit) := by decide
/-- The example of R113 (V-RX-1, cycle 44). -/
theorem test_rxTickBit_last : (nextOf (exec .rxTickBit (lineLow receiving))).map
    (fun t => (t.rxb, t.rx_state, t.rx_idx)) =
      some ({ mem := [(0, 0x41#8)], head := 1, tail := 0, count := 1, stray := 0 }, .stop, 0#3) := by decide
/-- The example of R114. -/
theorem test_rxTickStop : (nextOf (exec .rxTickStop { receiving with rx_state := .stop })).map
    (fun t => (t.rxg, t.edge_en, t.rx_state)) = some ({ act := false, cnt := 0 }, true, .idle) := by decide

/-! ## The bit driver -/

/-- The example of R121. -/
theorem test_txTickIdle : (nextOf (exec .txTickIdle { s4 with txb := twoBytes })).map (fun t => (t.tx_state, t.tx_o)) =
    some (.start, true) := by decide
/-- The example of R122. -/
theorem test_txTickStart : (nextOf (exec .txTickStart { s4 with
    tx_state := .start, txb := { mem := [(0, 0x41#8)], head := 1, tail := 0, count := 1, stray := 0 } })).map
    (fun t => (t.tx_o, t.tx_shift, t.txb.count, t.txb.tail, t.tx_state)) = some (false, 0x41#8, 0, 1, .bit) := by decide
/-- R122 on an empty buffer: EMPTY_VALUE is sent. -/
theorem test_txTickStart_empty : (nextOf (exec .txTickStart { t1 with tx_state := .start })).map
    (fun t => (t.tx_o, t.tx_shift, t.tx_state)) = some (false, 0xEE#8, .bit) := by decide
/-- The example of R123. -/
theorem test_txTickBit : (nextOf (exec .txTickBit sending)).map (fun t => (t.tx_o, t.tx_idx, t.tx_state)) =
    some (true, 7#3, .bit) := by decide
/-- R123 at bit 7 (P1, cycle 41). -/
theorem test_txTickBit_last : (nextOf (exec .txTickBit { sending with tx_idx := 7#3 })).map
    (fun t => (t.tx_o, t.tx_idx, t.tx_state)) = some (false, 0#3, .stop) := by decide
/-- The example of R124. -/
theorem test_txTickStop : (nextOf (exec .txTickStop { sending with tx_state := .stop, txb := Ring.empty })).map
    (fun t => (t.tx_o, t.txg, t.tx_state)) = some (true, { act := false, cnt := 0 }, .idle) := by decide
/-- R124 with bytes queued (P2, cycle 45). -/
theorem test_txTickStop_queued : (nextOf (exec .txTickStop { sending with tx_state := .stop })).map
    (fun t => (t.tx_o, t.txg, t.tx_state)) = some (true, { act := true, cnt := 1 }, .start) := by decide

/-! ## The cycle -/

/-- V-ILL-1, cycle 1. -/
theorem test_illegal_word : (nextOf (step (issuing 0x9000#16 s4))).map (fun t => (t.rsp_valid, t.rsp_data, t.rsp_flag, t.rsp_ill)) =
    some (true, 0x00#8, false, true) := by decide
/-- V-TE-3. -/
theorem test_timer_counts : (nextOf (step { sending with txg := { act := true, cnt := 3 } })).map (fun t => (t.txg, t.tx_idx)) =
    some ({ act := true, cnt := 2 }, 6#3) := by decide
/-- R91: the reload is before the handler (V-TE-1). -/
theorem test_timer_fires : (nextOf (step sending)).map (fun t => (t.txg, t.tx_idx)) =
    some ({ act := true, cnt := 4 }, 7#3) := by decide
/-- V-RST-1: a reset cycle executes no command, and the storage keeps its bytes. -/
theorem test_reset_cycle : nextOf (step (onPorts true false true 0x5041#16 { sending with rsp_ill := true })) =
    some { s4 with txb := { Ring.empty with mem := twoBytes.mem } } := by decide
/-- V-RX-8: a GET_BYTE sees the byte of its own cycle. -/
theorem test_get_with_push : (nextOf (step (issuing 0x2000#16 { receiving with rx_shift := 0x3C#8 }))).map
    (fun t => (t.rsp_data, t.rsp_flag, t.rxb.count)) = some (0xBC#8, true, 0) := by decide
/-- V-TX-3, cycle 45. -/
theorem test_put_with_stop : (nextOf (step (issuing 0x5042#16 { sending with tx_state := .stop, txb := Ring.empty }))).map
    (fun t => (t.tx_state, t.txg, t.txb.count)) = some (.idle, { act := true, cnt := 4 }, 1) := by decide

/-! ## Placed words and host programs -/

theorem test_place_status : (nextOf (step (State.reset.withFetchWord 16 0x8000))).map (fun t => t.rsp_data) = some 0x45#8 := by
  decide
theorem test_place_putByte : (nextOf (step (State.reset.withFetchWord 16 0x5041))).map (fun t => t.txb.contents 32) =
    some [0x41#8] := by decide
theorem test_place_rxEdge : (nextOf (step (State.reset.withFetchWord 8 0x10))).map (fun t => (t.rx_state, t.rxg.cnt)) =
    some (.start, 2) := by decide
theorem test_place_rxTickBit : (nextOf (step (State.reset.withFetchWord 8 0x22))).map (fun t => (t.rx_idx, t.rx_shift)) =
    some (1#3, 0x01#8) := by decide
theorem test_place_txTickStart : (nextOf (step (State.reset.withFetchWord 8 0x31))).map (fun t => (t.tx_o, t.tx_state)) =
    some (false, .bit) := by decide
/-- R64: a host program that issues an illegal word is refused (P4). -/
theorem test_program_illegal : ∃ r, runLines 1 [.word 0x9000#16] s4 = .refused r := ⟨_, rfl⟩
/-- Log entry 18: a poll in a reset cycle has no response, and the loop goes on to the next. -/
theorem test_program_reset_poll :
    ∃ t, runLine 1 .waitTxIdle (onPorts true true false 0x0000#16 s4) = .next (t, false) ∧
      ∃ u, runLine 2 .waitTxIdle (onPorts true true false 0x0000#16 s4) = .next (u, true) ∧ u.rsp_data = 0x45#8 :=
  ⟨_, rfl, _, rfl, by decide⟩
/-- R67: `WAIT_RX` stops at the first poll that finds a byte. -/
theorem test_program_waitRx : ∃ t, runLines 1 [.waitRx, .tryGet] { s4 with rxb := twoBytes } = .next (t, true) ∧
    t.rsp_data = 0x41#8 := ⟨_, rfl, by decide⟩

/-! ## Witnesses: concrete states that meet the hypotheses of the statements, clause by clause -/

/-- The smallest buffer, empty and full, is a well-formed ring; so is a wrapped one. -/
theorem witness_ring_wf : Ring.empty.Wf 1 ∧ fullOne.Wf 1 ∧ Ring.Wf 4 { mem := [], head := 1, tail := 3, count := 2, stray := 0 } :=
  ⟨by constructor <;> decide, by constructor <;> decide, by constructor <;> decide⟩

/-- An invariant state with nothing going on, at the smallest parameters. -/
theorem witness_inv_tiny : t1.Inv :=
  ⟨by decide, by constructor <;> decide, by constructor <;> decide, by decide, by decide, by constructor <;> decide,
    by decide⟩

/-- An invariant state with a byte going out and two queued. -/
theorem witness_inv_sending : sending.Inv :=
  ⟨by decide, by constructor <;> decide, by constructor <;> decide, by decide, by decide, by constructor <;> decide,
    by decide⟩

/-- An invariant state about to take the last bit of a byte. -/
theorem witness_inv_receiving : receiving.Inv :=
  ⟨by decide, by constructor <;> decide, by constructor <;> decide, by decide, by decide, by constructor <;> decide,
    by decide⟩

theorem witness_ResetCycleOnlyResets :
    (onPorts true false true 0x1000#16 sending).par.legal = true ∧ (onPorts true false true 0x1000#16 sending).input.rst = true := by
  decide
theorem witness_BadParametersAreRefused : step { t1 with par := { tiny with P := 1 } } = .refused .badParameters ∧
    ∃ t, step t1 = .next t := ⟨rfl, _, rfl⟩
theorem witness_ParametersNeverChange : ∃ t, cycles 2 (issuing 0x1000#16 sending) = .next t := ⟨_, rfl⟩
theorem witness_DecodeAndEncodeAgree : decode (.cmd16 0x50FF#16) = .ok (.putByte 0xFF#8) ∧
    decode (.evt8 0x13#8) = .ok (.rxEdge .stop) := by decide
theorem witness_IllegalWordsOnlyAnswer : (issuing 0x9000#16 s4).input.cmd_valid = true ∧
    decodeCmd (issuing 0x9000#16 s4).input.cmd = .error .reservedOp ∧ (∃ t, exec .nop { s4 with rsp_ill := true } = .next t) ∧
    Instr.isCommand .nop = true ∧ (∃ t, runLines 0 [] s4 = .next (t, true)) ∧
    ∃ t, runLines 1 [.command .nop, .waitRx] { s4 with rxb := twoBytes } = .next (t, true) :=
  ⟨by decide, by decide, ⟨_, rfl⟩, by decide, ⟨_, rfl⟩, _, rfl⟩
theorem witness_PortCarriesNoEvent : decodeCmd 0x8000#16 = .ok .status := by decide
theorem witness_StepRunsTheDecodedInstruction :
    (issuing 0x2000#16 s4).par.legal = true ∧ (issuing 0x2000#16 s4).input.rst = false ∧
    (issuing 0x2000#16 s4).input.cmd_valid = true ∧ decodeCmd (issuing 0x2000#16 s4).input.cmd = .ok .getByte ∧
    s4.input.cmd_valid = false ∧ (lineLow s4).fall = true ∧ s4.fall = false := by decide
theorem witness_StepOnAPlacedWord : ∃ t, sending.par.legal = true ∧ decodeCmd 0x50A5#16 = .ok (.putByte 0xA5#8) ∧
    tickSide (sending.withFetchWord 16 (0x50A5#16).toNat) = .next t := ⟨_, by decide, by decide, rfl⟩
/-- Counts 1, 2, `P` and the greatest of `CW` bits. -/
theorem witness_TimersCountAndFire : s4.rxg.act = false ∧ s4.txg.act = false ∧
    (receiving.rxg.act = true ∧ receiving.rxg.cnt = 1) ∧ (sending.txg.act = true ∧ sending.txg.cnt = 1) ∧
    (∀ n, n = 2 ∨ n = 4 ∨ n = 7 → { receiving with rxg := { act := true, cnt := n } }.rxg.act = true ∧ 2 ≤ n ∧
      n < 2 ^ receiving.par.CW ∧ n < 2 ^ sending.par.CW) := by
  refine ⟨by decide, by decide, by decide, by decide, ?_⟩
  rintro n (rfl | rfl | rfl) <;> decide
/-- Room at the last slot, and no room. -/
theorem witness_PutAppendsOrDrops : ({ twoBytes with head := 3, tail := 1 } : Ring).count < 4 ∧
    ({ twoBytes with head := 3, tail := 1 } : Ring).head < 4 ∧ 1 ≤ fullOne.count ∧ fullOne.head < 1 ∧
    twoBytes.mem.wf = true ∧ fullOne.mem.wf = true := by decide
theorem witness_GetTakesTheOldest : 0 < fullOne.count ∧ fullOne.tail < 1 ∧ Ring.empty.count = 0 := by decide
theorem witness_BuffersAreFifos : fullOne.Wf 1 ∧ fullOne.mem.wf = true ∧ twoBytes.Wf 4 ∧ twoBytes.mem.wf = true :=
  ⟨by constructor <;> decide, by decide, by constructor <;> decide, by decide⟩
/-- The first slot past the end, for each access, and index 3 of a buffer of 3 slots, which its two bits can hold. -/
theorem witness_AccessOutsideStorageRuns :
    (0 < { fullOne with tail := 1 }.count ∧ t1.par.RX_CAP ≤ { fullOne with tail := 1 }.tail ∧
      t1.par.TX_CAP ≤ { fullOne with tail := 1 }.tail) ∧
    ({ Ring.empty with head := 1 }.count < t1.par.TX_CAP ∧ t1.par.TX_CAP ≤ { Ring.empty with head := 1 }.head ∧
      Ring.empty.mem.wf = true) ∧
    (receiving.rx_idx = 7#3 ∧ { Ring.empty with head := 128 }.count < receiving.par.RX_CAP ∧
      receiving.par.RX_CAP ≤ { Ring.empty with head := 128 }.head) ∧
    ({ tiny with RX_CAP := 3 }.legal = true ∧ 3 < 2 ^ { tiny with RX_CAP := 3 }.RIW) := by decide

/-- Each command word is presented in some cycle that completes. -/
theorem witness_issues (w : CmdWord) : (issuing w sending).issues w := ⟨by rfl, by rfl, by rfl, by rfl⟩
theorem witness_NopOnlyAnswers : (issuing 0x0000#16 sending).issues 0x0000#16 ∧
    ∃ t, step (issuing 0x0000#16 sending) = .next t := ⟨witness_issues _, _, rfl⟩
theorem witness_InitReinitialises : (issuing 0x1000#16 sending).issues 0x1000#16 ∧
    ∃ t, step (issuing 0x1000#16 sending) = .next t := ⟨witness_issues _, _, rfl⟩
theorem witness_GetByteAnswersTheOldestByte : t1.rxb.count = 0 ∧
    (0 < { t1 with rxb := fullOne }.rxb.count ∧ { t1 with rxb := fullOne }.rxb.tail < t1.par.RX_CAP) ∧
    (issuing 0x2000#16 sending).issues 0x2000#16 ∧ ∃ t, step (issuing 0x2000#16 sending) = .next t :=
  ⟨by decide, by decide, witness_issues _, _, rfl⟩
/-- With room (the last free slot), and without. -/
theorem witness_PutBytePushesAndArms :
    (t1.txb.count < t1.par.TX_CAP ∧ t1.txb.head < t1.par.TX_CAP) ∧
    (¬{ t1 with txb := fullOne }.txb.count < t1.par.TX_CAP) ∧
    (s4.txb.mem.wf = true ∧ s4.txb.head < s4.par.TX_CAP ∧ ∃ t, exec (.putByte 0xA5#8) s4 = .next t) :=
  ⟨by decide, by decide, by decide, by decide, _, rfl⟩
theorem witness_StatusShowsTheStatusView : tiny.legal = true := by decide
theorem witness_EdgeStartsAFrameOnlyWhenListening :
    ((lineLow s4).fall = true ∧ (lineLow s4).edge_en = true ∧ (lineLow s4).rx_state = .idle) ∧
    (Fsm.bit ≠ .idle ∧ s4.fall = false ∧ receiving.edge_en = false ∧ receiving.rx_state ≠ .idle) := by decide
/-- A bit that is not the last; the last with room in the one slot; the last without room. -/
theorem witness_RxBitTickSamplesOneBit : { receiving with rx_idx := 6#3 }.rx_idx ≠ 7#3 ∧
    (receiving.rx_idx = 7#3 ∧ (t1.rxb.count < t1.par.RX_CAP ∧ t1.rxb.head < t1.par.RX_CAP)) ∧
    ¬{ t1 with rxb := fullOne }.rxb.count < t1.par.RX_CAP ∧
    (receiving.rxb.mem.wf = true ∧ receiving.rxb.head < receiving.par.RX_CAP ∧ ∃ t, exec .rxTickBit receiving = .next t) :=
  ⟨by decide, by decide, by decide, by decide, by decide, _, rfl⟩
theorem witness_TxStartTickPopsAByte : (0 < { t1 with txb := fullOne }.txb.count ∧
    { t1 with txb := fullOne }.txb.tail < t1.par.TX_CAP) ∧ t1.txb.count = 0 := by decide
theorem witness_TxStopTickLoopsOrDisarms : sending.txb.count ≠ 0 ∧ s4.txb.count = 0 := by decide

/-! Who writes what: for each instruction that changes the element, a state in which it does. -/

theorem witness_EdgeEnableWriters :
    (∃ t, exec (.rxEdge .idle) (lineLow s4) = .next t ∧ t.edge_en ≠ s4.edge_en) ∧
    (∃ t, exec .rxTickStop receiving = .next t ∧ t.edge_en ≠ receiving.edge_en) ∧
    (∃ t, exec .init receiving = .next t ∧ t.edge_en ≠ receiving.edge_en) ∧
    (∃ t, step (onPorts true true false 0x0000#16 receiving) = .next t) :=
  ⟨⟨_, rfl, by decide⟩, ⟨_, rfl, by decide⟩, ⟨_, rfl, by decide⟩, ⟨_, rfl⟩⟩
theorem witness_MachineStateWriters :
    (∃ t, exec .rxTickBit receiving = .next t ∧ t.rx_state ≠ receiving.rx_state) ∧
    (∃ t, exec .txTickIdle s4 = .next t ∧ t.tx_state ≠ s4.tx_state) := ⟨⟨_, rfl, by decide⟩, ⟨_, rfl, by decide⟩⟩
theorem witness_LineHeldBetweenTicks :
    (∃ t, exec .txTickBit sending = .next t ∧ t.tx_o ≠ sending.tx_o) ∧
    (∃ t, step (issuing 0x5041#16 s4) = .next t ∧ (issuing 0x5041#16 s4).input.rst = false ∧
      ¬(issuing 0x5041#16 s4).issues 0x1000#16 ∧
      ¬((issuing 0x5041#16 s4).txg.act = true ∧ (issuing 0x5041#16 s4).txg.cnt = 1 ∧
        (issuing 0x5041#16 s4).tx_state ≠ .idle)) :=
  ⟨⟨_, rfl, by decide⟩, ⟨_, rfl, by decide, by unfold State.issues; decide, by decide⟩⟩
theorem witness_OneProducerOneConsumer :
    (∃ t, exec .rxTickBit receiving = .next t ∧ t.rxb ≠ receiving.rxb) ∧
    (∃ t, exec .getByte { s4 with rxb := twoBytes } = .next t ∧ t.rxb ≠ twoBytes) ∧
    (∃ t, exec (.putByte 0x41#8) s4 = .next t ∧ t.txb ≠ s4.txb) ∧
    (∃ t, exec .txTickStart sending = .next t ∧ t.txb ≠ sending.txb) ∧
    (∃ t, exec .init sending = .next t ∧ t.txb ≠ sending.txb) :=
  ⟨⟨_, rfl, by decide⟩, ⟨_, rfl, by decide⟩, ⟨_, rfl, by decide⟩, ⟨_, rfl, by decide⟩, ⟨_, rfl, by decide⟩⟩
theorem witness_PreviousLevelFollowsTheLine :
    (∃ t, step (lineLow s4) = .next t ∧ (lineLow s4).input.rst = false) ∧
    (∃ t, step (onPorts true false false 0x0000#16 s4) = .next t ∧ (onPorts true false false 0x0000#16 s4).input.rst = true) ∧
    (∃ t, exec .init { s4 with rx_prev := false } = .next t) :=
  ⟨⟨_, rfl, by decide⟩, ⟨_, rfl, by decide⟩, ⟨_, rfl⟩⟩
theorem witness_ResponsesAreHeld : (∃ t, step (issuing 0x8000#16 s4) = .next t) ∧ (issuing 0x8000#16 s4).input.rst = false ∧
    (∃ t, step { s4 with rsp_data := 0x45#8 } = .next t) ∧ s4.input.cmd_valid = false :=
  ⟨⟨_, rfl⟩, by decide, ⟨_, rfl⟩, by decide⟩
theorem witness_HostAndTickSideKeepApart :
    (Instr.isCommand .getByte = true ∧ Instr.getByte ≠ .init ∧ ∃ t, exec .getByte { s4 with rxb := twoBytes } = .next t) ∧
    (Instr.isCommand .status = true ∧ ∀ d, Instr.status ≠ .putByte d) ∧
    (Instr.isCommand .rxTickBit = false ∧ ∃ t, exec .rxTickBit receiving = .next t) :=
  ⟨⟨by decide, by decide, _, rfl⟩, ⟨by decide, by intro d h; cases h⟩, ⟨by decide, _, rfl⟩⟩
theorem witness_QueriesAreIdempotent : (∃ t, exec .rxFull sending = .next t) ∧
    (∃ t, exec .getByte { t1 with rxb := fullOne } = .next t) ∧ 0 < fullOne.count := ⟨⟨_, rfl⟩, ⟨_, rfl⟩, by decide⟩

/-! Invariants, progress, independence. -/

theorem witness_ResetMeetsTheInvariant : tiny.legal = true ∧ (Params.defaults 2).legal = true := by decide
theorem witness_StepKeepsTheInvariant : sending.Inv ∧ ∃ t, step sending = .next t := ⟨witness_inv_sending, _, rfl⟩
theorem witness_ReachableStatesMeetR28 : tiny.legal = true ∧
    ∃ t, cycles 2 { State.resetOf tiny with inputs := [{ rst := false, rx_i := false, cmd_valid := true, cmd := 0x5041#16 }] } =
      .next t := ⟨by decide, _, rfl⟩
/-- A legal parameter set and a state no run reaches: an index past its capacity, a count past it, an active generator at 0. -/
theorem witness_EveryStateHasAStep :
    { t1 with rxb := { fullOne with tail := 1, count := 2 }, rxg := { act := true, cnt := 0 } }.par.legal = true := by decide
/-- The same transmit side beside two receive sides, and the line at two levels. -/
theorem witness_TxSideIgnoresTheRxSide :
    (lineLow { sending with rx_state := .bit, rxb := twoBytes }).txView = (onPorts false true false 0x0000#16 sending).txView ∧
    (∃ t, step (lineLow { sending with rx_state := .bit, rxb := twoBytes }) = .next t) ∧
    (∃ t, step (onPorts false true false 0x0000#16 sending) = .next t) := ⟨by decide, ⟨_, rfl⟩, ⟨_, rfl⟩⟩
theorem witness_RxSideIgnoresTheTxSide :
    (issuing 0x5041#16 receiving).rxView = (issuing 0x5041#16 { receiving with txb := twoBytes, tx_o := false }).rxView ∧
    (issuing 0x5041#16 receiving).input = (issuing 0x5041#16 { receiving with txb := twoBytes, tx_o := false }).input ∧
    (∃ t, step (issuing 0x5041#16 receiving) = .next t) ∧
    (∃ t, step (issuing 0x5041#16 { receiving with txb := twoBytes, tx_o := false }) = .next t) :=
  ⟨by decide, by decide, ⟨_, rfl⟩, ⟨_, rfl⟩⟩
/-- Two states that differ in a dead slot alone. -/
theorem witness_DeadStorageNeverShows : t1.Inv ∧ { t1 with rxb := { Ring.empty with mem := fullOne.mem } }.Inv ∧
    t1.Agree { t1 with rxb := { Ring.empty with mem := fullOne.mem } } :=
  ⟨witness_inv_tiny,
    ⟨by decide, by constructor <;> decide, by constructor <;> decide, by decide, by decide, by constructor <;> decide, by decide⟩,
    ⟨by decide, by constructor <;> decide, by constructor <;> decide⟩⟩

/-! Two events in one cycle. -/

theorem witness_SameCycleOrder :
    ((issuing 0x2000#16 receiving).Inv ∧ (issuing 0x2000#16 receiving).issues 0x2000#16 ∧
      (issuing 0x2000#16 receiving).rx_state = .bit ∧ (issuing 0x2000#16 receiving).rx_idx = 7#3 ∧
      (issuing 0x2000#16 receiving).rxg.cnt = 1 ∧ (issuing 0x2000#16 receiving).rxb.count = 0) ∧
    ((issuing (0x50#8 ++ 0x42#8) { sending with tx_state := .stop, txb := Ring.empty }).Inv ∧
      (issuing (0x50#8 ++ 0x42#8) { sending with tx_state := .stop, txb := Ring.empty }).issues (0x50#8 ++ 0x42#8) ∧
      sending.txg.cnt = 1) :=
  ⟨⟨⟨by decide, by constructor <;> decide, by constructor <;> decide, by decide, by decide, by constructor <;> decide, by decide⟩,
      ⟨by rfl, by rfl, by rfl, by rfl⟩, by decide, by decide, by decide, by decide⟩,
    ⟨by decide, by constructor <;> decide, by constructor <;> decide, by decide, by decide, by constructor <;> decide, by decide⟩,
    ⟨by rfl, by rfl, by rfl, by rfl⟩, by decide⟩
theorem witness_EdgeAtTheStopTickIsTaken : (lineLow { receiving with rx_state := .stop }).Inv ∧
    (lineLow { receiving with rx_state := .stop }).rxg.cnt = 1 ∧ (lineLow { receiving with rx_state := .stop }).fall = true ∧
    (lineLow { receiving with rx_state := .stop }).without isInit 1 :=
  ⟨⟨by decide, by constructor <;> decide, by constructor <;> decide, by decide, by decide, by constructor <;> decide, by decide⟩,
    by decide, by decide, by unfold State.without; decide⟩

/-! Schedules. -/

/-- At the smallest counts and at the greatest, with nothing on the ports. -/
theorem witness_TimersCountDownToTheTick : sending.Inv ∧ (sending.gen .tx).act = true ∧ 0 < (sending.gen .tx).cnt ∧
    { receiving with rxg := { act := true, cnt := 4 } }.Inv ∧ 3 < ({ receiving with rxg := { act := true, cnt := 4 } }.gen .rx).cnt ∧
    receiving.without isInit 3 :=
  ⟨witness_inv_sending, by decide, by decide,
    ⟨by decide, by constructor <;> decide, by constructor <;> decide, by decide, by decide, by constructor <;> decide, by decide⟩,
    by decide, by unfold State.without; decide⟩
/-- An edge on an idle receiver, and one in the cycle of the Stop tick that re-enables detection. -/
theorem witness_ReceivedFrameSchedule :
    ((lineLow t1).Inv ∧ (lineLow t1).fall = true ∧ (∃ u, rxSubstep (lineLow t1) = .next u ∧ u.edge_en = true) ∧
      (lineLow t1).without isInit (t1.par.RX_OFF + 9 * t1.par.P)) ∧
    (∃ u, rxSubstep (lineLow { receiving with rx_state := .stop }) = .next u ∧ u.edge_en = true) :=
  ⟨⟨⟨by decide, by constructor <;> decide, by constructor <;> decide, by decide, by decide, by constructor <;> decide, by decide⟩,
    by decide, ⟨_, rfl, by decide⟩, by unfold State.without; decide⟩, ⟨_, rfl, by decide⟩⟩
/-- A PUT_BYTE to an idle transmitter: with nothing more, so that the line goes idle; and with another byte, so that a second frame
follows. -/
theorem witness_TransmittedFrameSchedule :
    (∀ d : Byte, (issuing (0x50#8 ++ d) t1).issues (0x50#8 ++ d)) ∧ (issuing 0x5041#16 t1).Inv ∧
    (∃ u, tickSide (issuing 0x5041#16 t1) = .next u ∧ u.txg.act = false) ∧
    (issuing 0x5041#16 t1).without isInit (t1.par.TX_OFF + 11 * t1.par.P + 1) ∧
    (∃ w, cycles (t1.par.TX_OFF + 10 * t1.par.P) (issuing 0x5041#16 t1) = .next w ∧ w.txb.count = 0) :=
  ⟨fun _ => ⟨by rfl, by rfl, by rfl, by rfl⟩,
    ⟨by decide, by constructor <;> decide, by constructor <;> decide, by decide, by decide, by constructor <;> decide, by decide⟩,
    ⟨_, rfl, by decide⟩, by unfold State.without; decide, ⟨_, rfl, by decide⟩⟩
theorem witness_TransmittedFrameSchedule_queued :
    ∃ w, cycles (s4.par.TX_OFF + 10 * s4.par.P) { s4 with inputs :=
        [{ rst := false, rx_i := true, cmd_valid := true, cmd := 0x5041#16 },
         { rst := false, rx_i := true, cmd_valid := true, cmd := 0x5042#16 }] } = .next w ∧ w.txb.count ≠ 0 := ⟨_, rfl, by decide⟩
/-- With a second PUT_BYTE and a STATUS after the first. -/
theorem witness_LoopbackRoundTrip :
    let s := { t1 with inputs :=
      [{ rst := false, rx_i := true, cmd_valid := true, cmd := 0x50#8 ++ 0x96#8 },
       { rst := false, rx_i := false, cmd_valid := true, cmd := 0x5001#16 },
       { rst := false, rx_i := true, cmd_valid := true, cmd := 0x8000#16 }] }
    s.Inv ∧ s.rx_state = .idle ∧ s.rx_prev = true ∧ s.txg.act = false ∧ s.rxb.count < s.par.RX_CAP ∧
    s.issues (0x50#8 ++ 0x96#8) ∧ s.without isInitOrGet (s.par.TX_OFF + s.par.RX_OFF + 9 * s.par.P + 2) ∧ s.rxb.count = 0 :=
  ⟨⟨by decide, by constructor <;> decide, by constructor <;> decide, by decide, by decide, by constructor <;> decide, by decide⟩,
    by decide, by decide, by decide, by decide, ⟨by decide, by decide, by decide, by decide⟩,
    by unfold State.without; decide, by decide⟩
theorem witness_StuckLowLineStartsNoFrame : { lineLow t1 with rx_prev := false }.Inv ∧ t1.rx_state = .idle ∧
    (∀ k, k < 1 → ({ lineLow t1 with rx_prev := false }.inputAt k).rst = false ∧
      ({ lineLow t1 with rx_prev := false }.inputAt k).rx_i = false) :=
  ⟨⟨by decide, by constructor <;> decide, by constructor <;> decide, by decide, by decide, by constructor <;> decide, by decide⟩,
    by decide, by decide⟩
theorem witness_HeldByteWaitsForTheHost : { t1 with rxb := fullOne }.Inv ∧ 0 < fullOne.count ∧
    { t1 with rxb := fullOne }.without isInitOrGet 3 :=
  ⟨⟨by decide, by constructor <;> decide, by constructor <;> decide, by decide, by decide, by constructor <;> decide, by decide⟩,
    by decide, by unfold State.without; decide⟩
theorem witness_FreeSlotWaitsForTheHost : sending.Inv ∧ sending.txb.count < sending.par.TX_CAP ∧
    sending.without isInitOrPut 3 ∧ (t1.Inv ∧ t1.txb.count < t1.par.TX_CAP) :=
  ⟨witness_inv_sending, by decide, by unfold State.without; decide, witness_inv_tiny, by decide⟩
theorem witness_ActiveBitFallsWithTheLineHigh :
    ({ sending with tx_state := .stop, txb := Ring.empty }.Inv ∧
      sending.txg.act = true ∧ ∃ t, step { sending with tx_state := .stop, txb := Ring.empty } = .next t ∧ t.txg.act = false) ∧
    ({ t1 with tx_state := .start, txg := { act := true, cnt := 1 }, txb := fullOne }.Inv ∧ fullOne.count = 1 ∧
      ∃ t, exec .txTickStart { t1 with tx_state := .start, txg := { act := true, cnt := 1 }, txb := fullOne } = .next t) :=
  ⟨⟨⟨by decide, by constructor <;> decide, by constructor <;> decide, by decide, by decide, by constructor <;> decide, by decide⟩,
    by decide, _, rfl, by decide⟩,
   ⟨by decide, by constructor <;> decide, by constructor <;> decide, by decide, by decide, by constructor <;> decide, by decide⟩,
    by decide, _, rfl⟩

end Sys2Proof.Tests
end

/-! PROOFS of the family 10_state.md: the reset values of R33 (O1), and the invariants of R27 and R28 in every reachable state
(O42). `State.Inv` is a condition on the receive side beside one on the transmit side, so an operation of one side has only that
side's condition to meet. Each side's condition has two ways to hold, one for a generator at rest and one for a running one, and
every tick ends in one of the two. -/

namespace Sys2Proof

/-- A legal parameter set, as the inequalities of R7 and R4. -/
theorem Params.legal_iff (p : Params) : p.legal = true ↔
    2 ≤ p.P ∧ 1 ≤ p.RX_OFF ∧ p.RX_OFF ≤ p.P - 1 ∧ 1 ≤ p.TX_OFF ∧ p.TX_OFF ≤ p.P ∧ 1 ≤ p.RX_CAP ∧ 1 ≤ p.TX_CAP := by
  simp [Params.legal, and_assoc]

/-- The command port carries only commands (R66). -/
theorem isCommand_of_decodeCmd {w : CmdWord} {i : Instr} (h : decodeCmd w = .ok i) : i.isCommand = true := by
  have hrows : ∀ r ∈ cmdTable, ∀ d, (r.make d).isCommand = true := by
    simp [cmdTable, Instr.isCommand]
  unfold decodeCmd at h
  split at h
  next r hr =>
    cases h
    exact hrows r (List.mem_of_find?_eq_some hr) _
  next => cases h

namespace Machine

/-! ## What runs and operations keep -/

/-- What every step keeps, every run keeps. -/
theorem cycles_keeps {Q : State → Prop} (hstep : ∀ s t, Q s → step s = .next t → Q t) {n : Nat} {s t : State} (hs : Q s)
    (h : cycles n s = .next t) : Q t := by
  induction n generalizing s with
  | zero => exact next_inj h ▸ hs
  | succ n ih =>
    rw [cycles_succ, andThen_eq_next] at h
    obtain ⟨u, hu, ht⟩ := h
    exact ih (hstep s u hs hu) ht

theorem rxSubstep_par {s t : State} (h : rxSubstep s = .next t) : t.par = s.par := by
  obtain ⟨-, he⟩ | ⟨-, -, he⟩ | ⟨-, -, he⟩ := rxSubstep_cases s
  · cases he.symm.trans h; rfl
  · simpa using exec_par (he.symm.trans h)
  · cases he.symm.trans h; simp

theorem edgeSubstep_par {s t : State} (h : edgeSubstep s = .next t) : t.par = s.par := by
  obtain ⟨-, -, -, he⟩ | ⟨-, he⟩ := edgeSubstep_cases s <;> cases he.symm.trans h <;> simp

theorem txSubstep_par {s t : State} (h : txSubstep s = .next t) : t.par = s.par := by
  obtain ⟨-, he⟩ | ⟨-, -, he⟩ | ⟨-, -, he⟩ := txSubstep_cases s
  · cases he.symm.trans h; rfl
  · simpa using exec_par (he.symm.trans h)
  · cases he.symm.trans h; simp

theorem hostSubstep_par {s t : State} (h : hostSubstep s = .next t) : t.par = s.par := by
  obtain ⟨-, he⟩ | ⟨-, i, -, he⟩ | ⟨-, -, he⟩ := hostSubstep_cases s
  · cases he.symm.trans h; rfl
  · exact exec_par (he.symm.trans h)
  · cases he.symm.trans h; simp

/-- No step changes the parameters (R4). -/
theorem step_par {s t : State} (h : step s = .next t) : t.par = s.par := by
  obtain ⟨-, ⟨-, rfl⟩ | ⟨-, a, b, c, d, ha, hb, hc, hd, rfl⟩⟩ := step_next h
  · rfl
  · simp [hostSubstep_par hd, txSubstep_par hc, edgeSubstep_par hb, rxSubstep_par ha]

/-- No run changes the parameters (R4). -/
theorem cycles_par {n : Nat} {s t : State} (h : cycles n s = .next t) : t.par = s.par :=
  cycles_keeps (Q := fun u => u.par = s.par) (fun _ _ hu hstep => (step_par hstep).trans hu) rfl h

/-- `RB_GET` keeps the canonical form of storage. -/
theorem Ring.get_mem_wf {b : Side} {cap : Nat} {e : Byte} {r q : Ring} {vo : Byte × Bool} (h : Ring.get b cap e r = (vo, q))
    (hm : r.mem.wf = true) : q.mem.wf = true := Ring.get_mem h ▸ hm

/-! ## The invariant, side by side -/

/-- What `State.Inv` asks of the receive side. -/
structure RxView.Inv (v : RxView) : Prop where
  ring : v.rxb.Wf v.par.RX_CAP
  mem : v.rxb.mem.wf = true
  listening : v.edge_en = true ↔ v.rx_state = .idle
  busy : v.rxg.act = true ↔ v.rx_state ≠ .idle
  cnt : v.rxg.act = true → 1 ≤ v.rxg.cnt ∧ v.rxg.cnt ≤ v.par.P

/-- What `State.Inv` asks of the transmit side. -/
structure TxView.Inv (v : TxView) : Prop where
  ring : v.txb.Wf v.par.TX_CAP
  mem : v.txb.mem.wf = true
  off : v.txg.act = false → v.tx_state = .idle ∧ v.txb.count = 0
  start : v.tx_state = .start → 1 ≤ v.txb.count
  first : v.tx_state = .idle → v.txg.act = true → 1 ≤ v.txb.count
  cnt : v.txg.act = true → 1 ≤ v.txg.cnt ∧ v.txg.cnt ≤ v.par.P
  line_high : v.tx_state = .idle ∨ v.tx_state = .start → v.tx_o = true

/-- The invariant is legal parameters and the conditions of the two sides. -/
theorem State.inv_iff (s : State) : s.Inv ↔ s.par.legal = true ∧ s.rxView.Inv ∧ s.txView.Inv := by
  constructor
  · intro h
    exact ⟨h.legal, ⟨h.rx_ring, h.rx_mem, h.r28.listening, h.r28.rx_busy, h.r28.rx_cnt⟩,
      ⟨h.tx_ring, h.tx_mem, h.r28.tx_off, h.r28.tx_start, h.r28.tx_first, h.r28.tx_cnt, h.line_high⟩⟩
  · rintro ⟨hl, hr, ht⟩
    exact ⟨hl, hr.ring, ht.ring, hr.mem, ht.mem,
      ⟨hr.listening, hr.busy, ht.off, ht.start, ht.first, hr.cnt, ht.cnt⟩, ht.line_high⟩

theorem State.Inv.rx {s : State} (h : s.Inv) : s.rxView.Inv := (s.inv_iff.mp h).2.1

theorem State.Inv.tx {s : State} (h : s.Inv) : s.txView.Inv := (s.inv_iff.mp h).2.2

/-- An operation of the receive side has only that side's condition to meet. -/
theorem State.Inv.of_rx {s t : State} (h : s.Inv) (htx : t.txView = s.txView) (hrx : t.rxView.Inv) : t.Inv := by
  have hpar : t.par = s.par := congrArg TxView.par htx
  exact t.inv_iff.mpr ⟨hpar ▸ h.legal, hrx, htx ▸ h.tx⟩

/-- An operation of the transmit side has only that side's condition to meet. -/
theorem State.Inv.of_tx {s t : State} (h : s.Inv) (hrx : t.rxView = s.rxView) (htx : t.txView.Inv) : t.Inv := by
  have hpar : t.par = s.par := congrArg RxView.par hrx
  exact t.inv_iff.mpr ⟨hpar ▸ h.legal, hrx ▸ h.rx, htx⟩

/-- A receiver at rest: idle, listening, its generator off. -/
theorem RxView.Inv.of_rest {v : RxView} (hring : v.rxb.Wf v.par.RX_CAP) (hmem : v.rxb.mem.wf = true)
    (hst : v.rx_state = .idle) (hen : v.edge_en = true) (hg : v.rxg.act = false) : v.Inv :=
  ⟨hring, hmem, by simp [hst, hen], by simp [hst, hg], by simp [hg]⟩

/-- A receiver in a frame: not idle, not listening, its generator counting. -/
theorem RxView.Inv.of_busy {v : RxView} (hring : v.rxb.Wf v.par.RX_CAP) (hmem : v.rxb.mem.wf = true)
    (hst : v.rx_state ≠ .idle) (hen : v.edge_en = false) (hg : v.rxg.act = true)
    (hcnt : 1 ≤ v.rxg.cnt ∧ v.rxg.cnt ≤ v.par.P) : v.Inv :=
  ⟨hring, hmem, by simp [hst, hen], by simp [hst, hg], fun _ => hcnt⟩

/-- A transmitter at rest: idle with nothing queued, the line high, its generator off. -/
theorem TxView.Inv.of_rest {v : TxView} (hring : v.txb.Wf v.par.TX_CAP) (hmem : v.txb.mem.wf = true)
    (hst : v.tx_state = .idle) (hc : v.txb.count = 0) (ho : v.tx_o = true) (hg : v.txg.act = false) : v.Inv :=
  ⟨hring, hmem, fun _ => ⟨hst, hc⟩, by simp [hst], by simp [hg], by simp [hg], fun _ => ho⟩

/-- A transmitter whose generator is counting: up to the Start tick a byte is queued and the line is high. -/
theorem TxView.Inv.of_busy {v : TxView} (hring : v.txb.Wf v.par.TX_CAP) (hmem : v.txb.mem.wf = true)
    (hg : v.txg.act = true) (hcnt : 1 ≤ v.txg.cnt ∧ v.txg.cnt ≤ v.par.P)
    (hbefore : v.tx_state = .idle ∨ v.tx_state = .start → 1 ≤ v.txb.count ∧ v.tx_o = true) : v.Inv :=
  ⟨hring, hmem, by simp [hg], fun h => (hbefore (.inr h)).1, fun h _ => (hbefore (.inl h)).1, fun _ => hcnt,
    fun h => (hbefore h).2⟩

/-- In a frame the receiver does not listen. -/
theorem RxView.Inv.not_listening {v : RxView} (h : v.Inv) (hst : v.rx_state ≠ .idle) : v.edge_en = false := by
  simpa [hst] using h.listening

/-- A transmitter whose generator is counting, up to the Start tick. -/
theorem TxView.Inv.before_start {v : TxView} (h : v.Inv) (hg : v.txg.act = true)
    (hst : v.tx_state = .idle ∨ v.tx_state = .start) : 1 ≤ v.txb.count ∧ v.tx_o = true :=
  ⟨hst.elim (fun hi => h.first hi hg) h.start, h.line_high hst⟩

/-! ## The generators -/

/-- A running generator may be given any count of `[1, P]`. -/
theorem State.Inv.setGen_count {b : Side} {s : State} {c : Nat} (h : s.Inv) (hg : (s.gen b).act = true) (h1 : 1 ≤ c)
    (hP : c ≤ s.par.P) : (s.setGen b { act := true, cnt := c }).Inv := by
  cases b with
  | rx =>
    have hst := h.rx.busy.mp hg
    exact h.of_rx rfl (.of_busy h.rx_ring h.rx_mem hst (h.rx.not_listening hst) rfl ⟨h1, hP⟩)
  | tx => exact h.of_tx rfl (.of_busy h.tx_ring h.tx_mem rfl ⟨h1, hP⟩ (h.tx.before_start hg))

/-- A firing generator reloads to a count of `[1, P]`. -/
theorem State.Inv.setGen_reload {b : Side} {s : State} (h : s.Inv) (hg : (s.gen b).act = true) :
    (s.setGen b { act := true, cnt := s.par.P }).Inv := by
  obtain ⟨hP, -⟩ := s.par.legal_iff.mp h.legal
  exact h.setGen_count hg (by omega) (Nat.le_refl _)

/-- The count of a running generator is in `[1, P]` (R28(f)). -/
theorem State.Inv.gen_cnt {s : State} (h : s.Inv) (b : Side) (hg : (s.gen b).act = true) :
    1 ≤ (s.gen b).cnt ∧ (s.gen b).cnt ≤ s.par.P := by
  cases b with
  | rx => exact h.r28.rx_cnt hg
  | tx => exact h.r28.tx_cnt hg

/-- A running generator that does not fire counts down without leaving `[1, P]`. -/
theorem State.Inv.setGen_down {b : Side} {s : State} (h : s.Inv) (hg : (s.gen b).act = true) (hne : (s.gen b).cnt ≠ 1) :
    (s.setGen b { act := true, cnt := decInWidth s.par.CW (s.gen b).cnt }).Inv := by
  obtain ⟨h1, hP⟩ := h.gen_cnt b hg
  rw [decInWidth_count h1 hP]
  exact h.setGen_count hg (by omega) (by omega)

/-! ## The receive side of a cycle -/

/-- The tick of the receive machine keeps the invariant. -/
theorem rxTick_keeps_inv {s t : State} (hs : s.Inv) (hg : s.rxg.act = true) (h : exec (rxTickOf s.rx_state) s = .next t) :
    t.Inv := by
  have hbusy := hs.r28.rx_busy.mp hg
  have hen : s.edge_en = false := hs.rx.not_listening hbusy
  have hcnt := hs.r28.rx_cnt hg
  cases hst : s.rx_state <;> rw [hst] at h
  case idle => exact absurd hst hbusy
  case start =>
    cases h
    exact hs.of_rx rfl (.of_busy hs.rx_ring hs.rx_mem nofun hen hg hcnt)
  case bit =>
    obtain ⟨-, rfl⟩ | ⟨-, q, hq, rfl⟩ := execRxTickBit_next h
    · exact hs.of_rx rfl (.of_busy hs.rx_ring hs.rx_mem hbusy hen hg hcnt)
    · exact hs.of_rx rfl (.of_busy (Ring.put_wf hq hs.rx_ring) (Ring.put_mem_wf hq hs.rx_mem) nofun hen hg hcnt)
  case stop =>
    cases h
    exact hs.of_rx rfl (.of_rest hs.rx_ring hs.rx_mem rfl rfl rfl)

theorem rxSubstep_keeps_inv {s t : State} (hs : s.Inv) (h : rxSubstep s = .next t) : t.Inv := by
  obtain ⟨-, he⟩ | ⟨hg, -, he⟩ | ⟨hg, hne, he⟩ := rxSubstep_cases s
  · exact next_inj (he.symm.trans h) ▸ hs
  · exact rxTick_keeps_inv (hs.setGen_reload (b := .rx) hg) rfl (he.symm.trans h)
  · exact next_inj (he.symm.trans h) ▸ hs.setGen_down (b := .rx) hg hne

/-- The edge sub-step keeps the invariant: an edge that is taken arms the generator for `RX_OFF` cycles. -/
theorem edgeSubstep_keeps_inv {s t : State} (hs : s.Inv) (h : edgeSubstep s = .next t) : t.Inv := by
  obtain ⟨-, -, -, he⟩ | ⟨-, he⟩ := edgeSubstep_cases s
  · obtain ⟨-, h1, hP, -⟩ := s.par.legal_iff.mp hs.legal
    exact next_inj (he.symm.trans h) ▸
      hs.of_rx rfl (.of_busy hs.rx_ring hs.rx_mem nofun rfl rfl ⟨h1, hP.trans (Nat.sub_le _ _)⟩)
  · have hrx := hs.rx
    exact next_inj (he.symm.trans h) ▸ hs.of_rx rfl ⟨hrx.ring, hrx.mem, hrx.listening, hrx.busy, hrx.cnt⟩

/-! ## The transmit side of a cycle -/

/-- The tick of the transmit machine keeps the invariant. -/
theorem txTick_keeps_inv {s t : State} (hs : s.Inv) (hg : s.txg.act = true) (h : exec (txTickOf s.tx_state) s = .next t) :
    t.Inv := by
  have hcnt := hs.r28.tx_cnt hg
  cases hst : s.tx_state <;> rw [hst] at h
  case idle =>
    cases h
    exact hs.of_tx rfl (.of_busy hs.tx_ring hs.tx_mem hg hcnt fun _ => hs.tx.before_start hg (.inl hst))
  case start =>
    obtain ⟨vo, q, hq, rfl⟩ := execTxTickStart_next h
    exact hs.of_tx rfl (.of_busy (Ring.get_wf hq hs.tx_ring) (Ring.get_mem_wf hq hs.tx_mem) hg hcnt nofun)
  case bit =>
    cases h
    refine hs.of_tx rfl (.of_busy hs.tx_ring hs.tx_mem hg hcnt ?_)
    by_cases hi : s.tx_idx = 7#3 <;> simp [State.txView, hi, hst]
  case stop =>
    obtain ⟨hc, he⟩ | ⟨hc, he⟩ := execTxTickStop_cases s <;> cases he.symm.trans h
    · exact hs.of_tx rfl (.of_rest hs.tx_ring hs.tx_mem rfl hc rfl rfl)
    · exact hs.of_tx rfl (.of_busy hs.tx_ring hs.tx_mem hg hcnt fun _ => ⟨Nat.pos_of_ne_zero hc, rfl⟩)

theorem txSubstep_keeps_inv {s t : State} (hs : s.Inv) (h : txSubstep s = .next t) : t.Inv := by
  obtain ⟨-, he⟩ | ⟨hg, -, he⟩ | ⟨hg, hne, he⟩ := txSubstep_cases s
  · exact next_inj (he.symm.trans h) ▸ hs
  · exact txTick_keeps_inv (hs.setGen_reload (b := .tx) hg) rfl (he.symm.trans h)
  · exact next_inj (he.symm.trans h) ▸ hs.setGen_down (b := .tx) hg hne

/-! ## The host side of a cycle, and reset -/

/-- A response touches neither side. -/
theorem State.Inv.respond {s : State} (hs : s.Inv) (d : Byte) (f : Bool) : (s.respond d f).Inv := hs.of_rx rfl hs.rx

/-- The writes INIT and reset share leave both sides at rest. -/
theorem State.Inv.initBlock {s : State} (hs : s.Inv) : s.initBlock.Inv := by
  obtain ⟨-, -, -, -, -, hrx, htx⟩ := s.par.legal_iff.mp hs.legal
  exact s.initBlock.inv_iff.mpr ⟨hs.legal, .of_rest (Ring.emptied_wf hrx _) hs.rx_mem rfl rfl rfl,
    .of_rest (Ring.emptied_wf htx _) hs.tx_mem rfl rfl rfl rfl⟩

/-- A reset cycle writes, beside what INIT does, only elements the invariant does not speak of. -/
theorem resetCycle_keeps_inv {s : State} (hs : s.Inv) : (resetCycle s).Inv :=
  hs.initBlock.of_rx rfl (.of_rest hs.initBlock.rx_ring hs.rx_mem rfl rfl rfl)

/-- PUT_BYTE keeps the invariant: an idle transmitter has an empty buffer, so the byte it is armed for is queued. -/
theorem execPutByte_keeps_inv {d : Byte} {s t : State} (hs : s.Inv) (h : execPutByte d s = .next t) : t.Inv := by
  obtain ⟨q, hq, rfl⟩ := execPutByte_next h
  obtain ⟨-, -, -, h1, hP, -, hcap⟩ := s.par.legal_iff.mp hs.legal
  have hring := Ring.put_wf hq hs.tx_ring
  have hmem := Ring.put_mem_wf hq hs.tx_mem
  refine State.Inv.respond ?_ _ _
  cases hg : s.txg.act with
  | true =>
    have hcount : s.txb.count ≤ q.count := by
      obtain ⟨-, rfl⟩ | ⟨-, rfl⟩ := Ring.put_cases hq
      · exact Nat.le_succ _
      · exact Nat.le_refl _
    refine hs.of_tx rfl (.of_busy hring hmem hg (hs.r28.tx_cnt hg) fun hst => ?_)
    obtain ⟨hc, ho⟩ := hs.tx.before_start hg hst
    exact ⟨hc.trans hcount, ho⟩
  | false =>
    obtain ⟨hst, hc⟩ := hs.r28.tx_off hg
    have hcount : 1 ≤ q.count := by
      obtain ⟨-, rfl⟩ | ⟨hfull, -⟩ := Ring.put_cases hq
      · exact Nat.succ_pos _
      · omega
    exact hs.of_tx rfl (.of_busy hring hmem rfl ⟨h1, hP⟩ fun _ => ⟨hcount, hs.line_high (.inl hst)⟩)

/-- GET_BYTE keeps the invariant: it takes from the receive buffer alone. -/
theorem execGetByte_keeps_inv {s t : State} (hs : s.Inv) (h : execGetByte s = .next t) : t.Inv := by
  obtain ⟨vo, q, hq, rfl⟩ := execGetByte_next h
  have hrx := hs.rx
  have hget : (s.setRing .rx q).Inv :=
    hs.of_rx rfl ⟨Ring.get_wf hq hs.rx_ring, Ring.get_mem_wf hq hs.rx_mem, hrx.listening, hrx.busy, hrx.cnt⟩
  exact hget.respond _ _

/-- Every command keeps the invariant; all but three only respond. -/
theorem command_keeps_inv {i : Instr} {s t : State} (hi : i.isCommand = true) (hs : s.Inv) (h : exec i s = .next t) :
    t.Inv := by
  cases i with
  | init => cases h; exact hs.initBlock.respond _ _
  | getByte => exact execGetByte_keeps_inv hs h
  | putByte d => exact execPutByte_keeps_inv hs h
  | nop | rxEmpty | txEmpty | rxFull | txFull | status => cases h; exact hs.respond _ _
  | _ => cases hi

theorem hostSubstep_keeps_inv {s t : State} (hs : s.Inv) (h : hostSubstep s = .next t) : t.Inv := by
  obtain ⟨-, he⟩ | ⟨-, i, hi, he⟩ | ⟨-, -, he⟩ := hostSubstep_cases s
  · exact next_inj (he.symm.trans h) ▸ hs
  · exact command_keeps_inv (isCommand_of_decodeCmd hi) hs (he.symm.trans h)
  · exact next_inj (he.symm.trans h) ▸ hs.of_rx rfl hs.rx

/-! ## The step, runs, and the obligations -/

/-- Every step keeps the invariant. -/
theorem step_keeps_inv {s t : State} (hs : s.Inv) (h : step s = .next t) : t.Inv := by
  obtain ⟨-, ⟨-, rfl⟩ | ⟨-, a, b, c, d, ha, hb, hc, hd, rfl⟩⟩ := step_next h
  · exact resetCycle_keeps_inv hs
  · have hdi : d.Inv := hostSubstep_keeps_inv
      (txSubstep_keeps_inv (edgeSubstep_keeps_inv (rxSubstep_keeps_inv hs ha) hb) hc) hd
    exact hdi.of_rx rfl hdi.rx

/-- Every run keeps the invariant. -/
theorem cycles_keeps_inv {n : Nat} {s t : State} (hs : s.Inv) (h : cycles n s = .next t) : t.Inv :=
  cycles_keeps (fun _ _ => step_keeps_inv) hs h

/-- A block after reset meets the invariant, whatever its inputs will be. -/
theorem resetOf_inv {p : Params} (hp : p.legal = true) (xs : List Input) : { State.resetOf p with inputs := xs }.Inv := by
  obtain ⟨-, -, -, -, -, hrx, htx⟩ := p.legal_iff.mp hp
  exact (State.inv_iff _).mpr ⟨hp, .of_rest (Ring.emptied_wf hrx Ring.empty) rfl rfl rfl rfl,
    .of_rest (Ring.emptied_wf htx Ring.empty) rfl rfl rfl rfl rfl⟩

/-- Settles O42: reset meets `State.Inv`, which every cycle keeps and which contains R27 and R28. -/
theorem reachableStatesMeetR28 : Obligations.ReachableStatesMeetR28 := by
  intro p xs n t hp h
  have ht : t.Inv := cycles_keeps_inv (resetOf_inv hp xs) h
  have hpar : t.par = p := cycles_par h
  exact ⟨ht.r28, hpar ▸ ht.rx_ring, hpar ▸ ht.tx_ring⟩

/-- The reset state of any parameter set holds the values of R33's table. -/
theorem resetOf_atReset (p : Params) : (State.resetOf p).AtReset where
  rx_state := rfl
  rx_idx := rfl
  rx_shift := rfl
  edge_en := rfl
  rx_prev := rfl
  rxg := ⟨rfl, rfl⟩
  tx_state := rfl
  tx_idx := rfl
  tx_shift := rfl
  tx_o := rfl
  txg := ⟨rfl, rfl⟩
  rxb := ⟨rfl, rfl, rfl⟩
  txb := ⟨rfl, rfl, rfl⟩
  rsp_valid := rfl
  rsp_data := rfl
  rsp_flag := rfl
  rsp_ill := rfl

/-- Settles O1: the table is read off the reset state's definition; `State.reset` is the case of one parameter set. -/
theorem resetHoldsTheStatedValues : Obligations.ResetHoldsTheStatedValues :=
  ⟨fun p => ⟨resetOf_atReset p, rfl⟩, resetOf_atReset _⟩

end Machine

end Sys2Proof

/-! PROOFS of the family 30_encoding.md: the illegal words of R64 and what they do (O9). A command word is its three fields, so
matching a row of R61's table is a condition on the fields, and a word decodes exactly when `CmdWord.legal` holds of it, which is
also what the host-program runner asks. -/

namespace Sys2Proof

/-! ## A command word by its fields -/

/-- Two command words are equal when their fields are (R60). -/
theorem cmdWord_eq_iff_fields (w p : CmdWord) :
    w = p ↔ opField w = opField p ∧ rsvField w = rsvField p ∧ dataField w = dataField p := by
  simp only [← BitVec.toNat_inj, opField, rsvField, dataField, BitVec.extractLsb'_toNat, Nat.shiftRight_eq_div_pow]
  omega

/-- A row without operand (mask 0xFFFF) matches the one word with its `op` and nothing in the other fields. -/
theorem fullRow_matches_iff (w p : CmdWord) (op : BitVec 4)
    (hp : opField p = op ∧ rsvField p = 0x0#4 ∧ dataField p = 0x00#8) :
    w &&& 0xFFFF#16 = p ↔ opField w = op ∧ rsvField w = 0x0#4 ∧ dataField w = 0x00#8 := by
  obtain ⟨hop, hrsv, hdata⟩ := hp
  have hmask : w &&& 0xFFFF#16 = w := BitVec.and_allOnes
  rw [hmask, cmdWord_eq_iff_fields, hop, hrsv, hdata]

/-- The row of PUT_BYTE (mask 0xFF00) leaves `data` free (R61). -/
theorem putByteRow_matches_iff (w : CmdWord) :
    w &&& 0xFF00#16 = 0x5000#16 ↔ opField w = 0x5#4 ∧ rsvField w = 0x0#4 := by
  have hop : opField (w &&& 0xFF00#16) = opField w := by
    simp only [opField, BitVec.extractLsb'_and]
    exact BitVec.and_allOnes
  have hrsv : rsvField (w &&& 0xFF00#16) = rsvField w := by
    simp only [rsvField, BitVec.extractLsb'_and]
    exact BitVec.and_allOnes
  have hdata : dataField (w &&& 0xFF00#16) = 0x00#8 := by
    simp only [dataField, BitVec.extractLsb'_and]
    exact BitVec.and_zero
  rw [cmdWord_eq_iff_fields, hop, hrsv, hdata]
  simp [opField, rsvField, dataField]

/-- The `op` values R64 does not reserve are the nine of R61's table. -/
theorem op_le_eight_iff (op : BitVec 4) : op ≤ 0x8#4 ↔
    op = 0x0#4 ∨ op = 0x1#4 ∨ op = 0x2#4 ∨ op = 0x3#4 ∨ op = 0x4#4 ∨ op = 0x5#4 ∨ op = 0x6#4 ∨ op = 0x7#4 ∨ op = 0x8#4 := by
  revert op
  decide

/-! ## Which words decode -/

/-- The legal words, by the names of the fields. -/
theorem CmdWord.legal_iff (w : CmdWord) :
    CmdWord.legal w = true ↔ opField w ≤ 0x8#4 ∧ rsvField w = 0x0#4 ∧ (opField w = 0x5#4 ∨ dataField w = 0x00#8) := by
  simp [CmdWord.legal, opField, rsvField, dataField, and_assoc]

/-- The legal words are those that match a row of R61's table. -/
theorem matches_row_iff_legal (w : CmdWord) : (∃ r ∈ cmdTable, w &&& r.mask = r.pat) ↔ CmdWord.legal w = true := by
  have hrow := fullRow_matches_iff w
  rw [CmdWord.legal_iff, op_le_eight_iff]
  simp only [cmdTable, List.exists_mem_cons_iff, List.not_mem_nil, false_and, exists_false, or_false, putByteRow_matches_iff,
    hrow 0x0000#16 0x0#4 (by decide), hrow 0x1000#16 0x1#4 (by decide), hrow 0x2000#16 0x2#4 (by decide),
    hrow 0x3000#16 0x3#4 (by decide), hrow 0x4000#16 0x4#4 (by decide), hrow 0x6000#16 0x6#4 (by decide),
    hrow 0x7000#16 0x7#4 (by decide), hrow 0x8000#16 0x8#4 (by decide)]
  by_cases h5 : opField w = 0x5#4
  · simp [h5]
  · simp [h5, or_and_right]

/-- A word is illegal when it matches no row (R63, R64). -/
theorem decodeCmd_error_iff_no_row (w : CmdWord) :
    (∃ e, decodeCmd w = .error e) ↔ ¬∃ r ∈ cmdTable, w &&& r.mask = r.pat := by
  unfold decodeCmd
  cases h : cmdTable.find? fun r => w &&& r.mask == r.pat with
  | none => simpa using h
  | some r =>
    have hr : w &&& r.mask = r.pat := by simpa using List.find?_some h
    simpa using ⟨r, List.mem_of_find?_eq_some h, hr⟩

/-- The decoder rejects exactly the words that are not legal. -/
theorem decodeCmd_error_iff (w : CmdWord) : (∃ e, decodeCmd w = .error e) ↔ CmdWord.legal w = false := by
  rw [decodeCmd_error_iff_no_row, matches_row_iff_legal, Bool.not_eq_true]

/-- The illegal words, as R64 lists them. -/
theorem CmdWord.illegal_iff (w : CmdWord) : CmdWord.legal w = false ↔
    0x9#4 ≤ opField w ∨ rsvField w ≠ 0x0#4 ∨ (opField w ≠ 0x5#4 ∧ dataField w ≠ 0x00#8) := by
  have hop : ¬opField w ≤ 0x8#4 ↔ 0x9#4 ≤ opField w := by
    generalize opField w = op
    bv_omega
  rw [← Bool.not_eq_true, CmdWord.legal_iff, not_and_or, not_and_or, not_or, hop]

namespace Machine

/-! ## What an illegal word and a legal command do -/

/-- The host sub-step takes the exception on a word that does not decode (R161). -/
theorem hostSubstep_illegal {s : State} {e : Illegal} (hv : s.input.cmd_valid = true) (he : decodeCmd s.input.cmd = .error e) :
    hostSubstep s = .next s.raiseIllegalCommand := by
  obtain ⟨hidle, -⟩ | ⟨-, i, hi, -⟩ | ⟨-, -, h⟩ := hostSubstep_cases s
  · cases hv.symm.trans hidle
  · cases he.symm.trans hi
  · exact h

/-- Every command ends in a response (R26, R130). -/
theorem command_responds {i : Instr} {s t : State} (hi : i.isCommand = true) (h : exec i s = .next t) :
    ∃ (u : State) (d : Byte) (f : Bool), t = u.respond d f := by
  cases i with
  | nop | init | rxEmpty | txEmpty | rxFull | txFull | status => exact ⟨_, _, _, (next_inj h).symm⟩
  | getByte =>
    obtain ⟨_, _, -, rfl⟩ := execGetByte_next h
    exact ⟨_, _, _, rfl⟩
  | putByte d =>
    obtain ⟨_, -, rfl⟩ := execPutByte_next h
    exact ⟨_, _, _, rfl⟩
  | _ => cases hi

/-- A host program is refused at its first ill-formed line, once the lines before it complete (R64). -/
theorem runLines_illFormed {fuel : Nat} {before : HostProgram} {l : Line} {s t : State} (hl : l.wellFormed = false)
    (h : runLines fuel before s = .next (t, true)) (after : HostProgram) :
    runLines fuel (before ++ l :: after) s = .refused .illFormedLine := by
  rw [runLines_append h]
  simp [runLines, runLine_illFormed hl]

/-- Settles O9: the decoder rejects exactly the words that are not `CmdWord.legal`; the sub-step takes the exception on them, and
the runner refuses them as ill-formed lines. -/
theorem illegalWordsOnlyAnswer : Obligations.IllegalWordsOnlyAnswer := by
  refine ⟨fun w => ?_, fun s e hv he => hostSubstep_illegal hv he, fun i s t hi h => ?_, ?_⟩
  · rw [decodeCmd_error_iff, CmdWord.illegal_iff]
  · obtain ⟨u, d, f, rfl⟩ := command_responds hi h
    exact respond_rsp_ill u d f
  · intro w e fuel before after s t he h
    have hl : (Line.word w).wellFormed = false := (decodeCmd_error_iff w).mp ⟨e, he⟩
    exact runLines_illFormed hl h after

end Machine

end Sys2Proof

/-! PROOFS of the family 40_ringbuffer.md: what RB_PUT and RB_GET do (O15, O16) and the FIFO law (O17). On the list of bytes a
buffer holds, oldest first, a put is an append cut off at the capacity and a get takes the first element; the FIFO law is then a
fact about lists. -/

namespace Sys2Proof.Machine

/-! ## One put, one get -/

/-- Settles O15, from the laws of `Ring.put`; the slot stored to is the head, which is a slot. -/
theorem putAppendsOrDrops : Obligations.PutAppendsOrDrops := by
  refine ⟨fun b _ v _ hc hh => Ring.put_room b v hc hh, fun b _ v _ hc => Ring.put_full b v hc, fun b cap v r j hm hh => ?_⟩
  simp [Ring.read_put hm, slotStored_of_lt hh, hh]

/-- Settles O16, from the two laws of `Ring.get`. -/
theorem getTakesTheOldest : Obligations.GetTakesTheOldest :=
  ⟨fun b _ e _ hc ht => Ring.get_byte b e hc ht, fun b _ e _ hc => Ring.get_empty b e hc⟩

/-! ## The bytes a buffer holds -/

@[simp] theorem Ring.contents_length (cap : Nat) (r : Ring) : (r.contents cap).length = r.count := by
  simp [Ring.contents]

/-- The slots from the tail on are distinct until they have gone round the buffer, so an occupied slot is not the next to be
written (R85). -/
theorem slot_ne_of_lt {cap t i j : Nat} (hij : i < j) (hj : j < cap) : (t + i) % cap ≠ (t + j) % cap := by
  intro h
  have hmod : i % cap = j % cap := Nat.ModEq.add_left_cancel' t h
  rw [Nat.mod_eq_of_lt (hij.trans hj), Nat.mod_eq_of_lt hj] at hmod
  exact hij.ne hmod

/-- A put into a buffer with room appends its byte: the occupied slots keep theirs, and the head slot joins them. -/
theorem Ring.contents_put_room {cap : Nat} {r : Ring} (b : Side) (v : Byte) (hr : r.Wf cap) (hm : r.mem.wf = true)
    (hc : r.count < cap) : (Ring.put b cap v r).contents cap = r.contents cap ++ [v] := by
  have hold : ∀ j ∈ List.range r.count,
      Memory.read (Memory.write r.mem r.head v) ((r.tail + j) % cap) = Memory.read r.mem ((r.tail + j) % cap) := by
    intro j hj
    have hne : (r.tail + j) % cap ≠ r.head := hr.head_eq ▸ slot_ne_of_lt (List.mem_range.mp hj) hc
    simp [Memory.read_write hm, hne]
  have hnew : Memory.read (Memory.write r.mem r.head v) ((r.tail + r.count) % cap) = v := by
    simp [Memory.read_write hm, hr.head_eq]
  rw [Ring.put_room b v hc hr.head_lt]
  simp [Ring.contents, List.range_succ, List.map_congr_left hold, hnew]

/-- A put appends its byte to the bytes held, cut off at the capacity. -/
theorem Ring.contents_put {cap : Nat} {r : Ring} (b : Side) (v : Byte) (hr : r.Wf cap) (hm : r.mem.wf = true) :
    (Ring.put b cap v r).contents cap = (r.contents cap ++ [v]).take cap := by
  obtain hc | hc := Nat.lt_or_ge r.count cap
  · rw [Ring.contents_put_room b v hr hm hc, List.take_of_length_le (by simpa using hc)]
  · have hlen : (r.contents cap).length = cap := by simpa using hr.count_le.antisymm hc
    rw [Ring.put_full b v hc, List.take_left' hlen]

/-- The oldest byte held is the one in the tail slot, and the others are those a get leaves (R81). -/
theorem Ring.contents_eq_cons {cap : Nat} {r : Ring} (hc : 0 < r.count) (ht : r.tail < cap) :
    r.contents cap =
      Memory.read r.mem r.tail :: Ring.contents cap { r with tail := nextSlot cap r.tail, count := r.count - 1 } := by
  obtain ⟨n, hn⟩ : ∃ n, r.count = n + 1 := Nat.exists_eq_add_one.mpr hc
  have hslot : ∀ j, (r.tail + (j + 1)) % cap = (nextSlot cap r.tail + j) % cap := fun j => by
    rw [nextSlot, Nat.mod_add_mod, Nat.add_assoc, Nat.add_comm 1]
  simp [Ring.contents, hn, List.range_succ_eq_map, Nat.mod_eq_of_lt ht, hslot]

/-! ## Many puts, many gets -/

/-- Cutting a list off before an append that is itself cut off there changes nothing. -/
theorem take_take_append {α : Type} (n : Nat) (as bs : List α) : (as.take n ++ bs).take n = (as ++ bs).take n := by
  have hrest : n - min n as.length = n - as.length := by omega
  simp [List.take_append, List.take_take, hrest]

/-- Puts in list order append the whole list, cut off at the capacity. -/
theorem Ring.contents_putAll {cap : Nat} (b : Side) (vs : List Byte) {r : Ring} (hr : r.Wf cap) (hm : r.mem.wf = true) :
    (Ring.putAll b cap vs r).contents cap = (r.contents cap ++ vs).take cap := by
  induction vs generalizing r with
  | nil => simp [Ring.putAll, List.take_of_length_le, hr.count_le]
  | cons v vs ih =>
    calc (Ring.putAll b cap vs (Ring.put b cap v r)).contents cap
        = ((r.contents cap ++ [v]).take cap ++ vs).take cap := by
          rw [ih (Ring.put_wf rfl hr) (Ring.put_mem_wf rfl hm), Ring.contents_put b v hr hm]
      _ = (r.contents cap ++ v :: vs).take cap := by
          rw [take_take_append, List.append_assoc, List.singleton_append]

/-- Puts keep the invariants of R27. -/
theorem Ring.putAll_wf {cap : Nat} (b : Side) (vs : List Byte) {r : Ring} (hr : r.Wf cap) : (Ring.putAll b cap vs r).Wf cap := by
  induction vs generalizing r with
  | nil => exact hr
  | cons v vs ih => exact ih (Ring.put_wf rfl hr)

/-- As many gets as a buffer holds bytes return those bytes, oldest first, and leave it empty. -/
theorem Ring.getAll_contents {cap n : Nat} (b : Side) (e : Byte) {r : Ring} (hn : r.count = n) (ht : r.tail < cap) :
    ∃ z, Ring.getAll b cap e n r = ((r.contents cap).map fun v => (v, true), z) ∧ z.count = 0 := by
  induction n generalizing r with
  | zero => exact ⟨r, by simp [Ring.getAll, Ring.contents, hn], hn⟩
  | succ n ih =>
    have hc : 0 < r.count := by omega
    obtain ⟨z, hz, hz0⟩ := ih (r := { r with tail := nextSlot cap r.tail, count := r.count - 1 })
      (Nat.sub_eq_of_eq_add hn) (nextSlot_lt (Nat.zero_lt_of_lt ht) _)
    exact ⟨z, by simp [Ring.getAll, Ring.get_byte b e hc ht, hz, Ring.contents_eq_cons hc ht], hz0⟩

/-- Settles O17: the puts leave the bytes held and the new ones, cut off at the capacity, so the count is that list's length, and
the gets return that list. -/
theorem buffersAreFifos : Obligations.BuffersAreFifos := by
  intro b cap e r vs hr hm
  have hcontents := Ring.contents_putAll b vs hr hm
  obtain ⟨z, hz, hz0⟩ := Ring.getAll_contents b e rfl (Ring.putAll_wf b vs hr).tail_lt
  refine ⟨_, z, rfl, ?_, hcontents ▸ hz, hz0⟩
  simpa using congrArg List.length hcontents

end Sys2Proof.Machine

/-! PROOFS of the family 41_timing_engine.md: the count step of both generators and the handler a tick runs (O13), and what ARM
and DISARM write (O14). The count step is the law `timerStep_*` of a side; sub-steps 1 and 3 add the handler to it. -/

namespace Sys2Proof.Machine

/-! ## Sub-step 1 (R91, R92) -/

/-- With its generator inactive the sub-step does nothing. -/
theorem rxSubstep_off {s : State} (h : s.rxg.act = false) : rxSubstep s = .next s := by
  simp [rxSubstep, timerStep_off (b := .rx) h]

/-- At count 1 the handler of `rx_state` runs, on the reloaded state. -/
theorem rxSubstep_fire {s : State} (h : s.rxg.act = true) (h1 : s.rxg.cnt = 1) :
    rxSubstep s = exec (rxTickOf s.rx_state) (s.setGen .rx { act := true, cnt := s.par.P }) := by
  simp [rxSubstep, timerStep_fire (b := .rx) h h1]

/-- At a greater count of `CW` bits the sub-step only counts down. -/
theorem rxSubstep_down {s : State} (h : s.rxg.act = true) (h2 : 2 ≤ s.rxg.cnt) (hw : s.rxg.cnt < 2 ^ s.par.CW) :
    rxSubstep s = .next (s.setGen .rx { act := true, cnt := s.rxg.cnt - 1 }) := by
  simp [rxSubstep, timerStep_down (b := .rx) h h2 hw]

/-! ## Sub-step 3 (R91, R92) -/

/-- With its generator inactive the sub-step does nothing. -/
theorem txSubstep_off {s : State} (h : s.txg.act = false) : txSubstep s = .next s := by
  simp [txSubstep, timerStep_off (b := .tx) h]

/-- At count 1 the handler of `tx_state` runs, on the reloaded state. -/
theorem txSubstep_fire {s : State} (h : s.txg.act = true) (h1 : s.txg.cnt = 1) :
    txSubstep s = exec (txTickOf s.tx_state) (s.setGen .tx { act := true, cnt := s.par.P }) := by
  simp [txSubstep, timerStep_fire (b := .tx) h h1]

/-- At a greater count of `CW` bits the sub-step only counts down. -/
theorem txSubstep_down {s : State} (h : s.txg.act = true) (h2 : 2 ≤ s.txg.cnt) (hw : s.txg.cnt < 2 ^ s.par.CW) :
    txSubstep s = .next (s.setGen .tx { act := true, cnt := s.txg.cnt - 1 }) := by
  simp [txSubstep, timerStep_down (b := .tx) h h2 hw]

/-! ## The obligations -/

/-- Settles O13, from the three laws of each side's sub-step; `rxTickOf` and `txTickOf` are R92's choice of the handler. -/
theorem timersCountAndFire : Obligations.TimersCountAndFire :=
  ⟨fun _ h => rxSubstep_off h, fun _ h h1 => rxSubstep_fire h h1, fun _ h h2 hw => rxSubstep_down h h2 hw,
    fun _ h => txSubstep_off h, fun _ h h1 => txSubstep_fire h h1, fun _ h h2 hw => txSubstep_down h h2 hw⟩

/-- Settles O14: ARM and DISARM are `setGen`, which on a side writes that side's generator alone. -/
theorem armAndDisarm : Obligations.ArmAndDisarm :=
  fun s off => ⟨arm_eq .rx off s, arm_eq .tx off s, disarm_eq .rx s, disarm_eq .tx s⟩

end Sys2Proof.Machine

/-! PROOFS of the family 42_edge_monitor.md: the writers of `edge_en` (O32) and of `rx_prev` (O36). Each register gets one lemma
over all instructions, and `rx_prev` one over each sub-step from the edge sub-step on: that sub-step writes it, and the later
ones keep it. -/

namespace Sys2Proof.Machine

/-! ## The writers of `edge_en` (R103) -/

/-- The RX Stop tick and INIT set `edge_en`, whatever it was. -/
theorem exec_sets_edge_en {s t : State} (h : exec .rxTickStop s = .next t ∨ exec .init s = .next t) : t.edge_en = true := by
  obtain h | h := h <;> cases h <;> rfl

/-- What an instruction can do to `edge_en`. -/
theorem exec_edge_en_cases {i : Instr} {s t : State} (h : exec i s = .next t) :
    t.edge_en = s.edge_en ∨ (i = .rxEdge .idle ∧ t.edge_en = false) ∨ (i = .rxTickStop ∧ t.edge_en = true) ∨
      (i = .init ∧ t.edge_en = true) := by
  cases i with
  | init => exact .inr (.inr (.inr ⟨rfl, exec_sets_edge_en (.inr h)⟩))
  | rxTickStop => exact .inr (.inr (.inl ⟨rfl, exec_sets_edge_en (.inl h)⟩))
  | rxEdge st =>
    obtain ⟨hst, -, -, -, he⟩ | ⟨-, he⟩ := execRxEdge_cases st s <;> cases he.symm.trans h
    · exact .inr (.inl ⟨congrArg Instr.rxEdge hst, rfl⟩)
    · exact .inl rfl
  | getByte =>
    obtain ⟨_, _, -, rfl⟩ := execGetByte_next h
    exact .inl rfl
  | putByte d =>
    obtain ⟨_, -, rfl⟩ := execPutByte_next h
    left
    split <;> rfl
  | rxTickBit =>
    obtain ⟨-, rfl⟩ | ⟨-, _, -, rfl⟩ := execRxTickBit_next h <;> exact .inl rfl
  | txTickStart =>
    obtain ⟨_, _, -, rfl⟩ := execTxTickStart_next h
    exact .inl rfl
  | txTickStop =>
    obtain ⟨-, he⟩ | ⟨-, he⟩ := execTxTickStop_cases s <;> cases he.symm.trans h <;> exact .inl rfl
  | _ => cases h; exact .inl rfl

/-- Settles O32: an instruction that changes `edge_en` is in one of the other three cases of `exec_edge_en_cases`; a reset cycle
answers `resetCycle`. -/
theorem edgeEnableWriters : Obligations.EdgeEnableWriters := by
  refine ⟨fun i s t h hne => (exec_edge_en_cases h).resolve_left hne, fun s t h => exec_sets_edge_en h, fun s t h hrst => ?_⟩
  obtain ⟨-, ⟨-, rfl⟩ | ⟨hrun, -⟩⟩ := step_next h
  · rfl
  · cases hrst.symm.trans hrun

/-! ## The writers of `rx_prev` (R104) -/

/-- No instruction writes `rx_prev`. -/
theorem exec_rx_prev {i : Instr} {s t : State} (h : exec i s = .next t) : t.rx_prev = s.rx_prev := by
  cases i with
  | rxEdge st =>
    obtain ⟨-, -, -, -, he⟩ | ⟨-, he⟩ := execRxEdge_cases st s <;> cases he.symm.trans h <;> rfl
  | getByte =>
    obtain ⟨_, _, -, rfl⟩ := execGetByte_next h
    rfl
  | putByte d =>
    obtain ⟨_, -, rfl⟩ := execPutByte_next h
    split <;> rfl
  | rxTickBit =>
    obtain ⟨-, rfl⟩ | ⟨-, _, -, rfl⟩ := execRxTickBit_next h <;> rfl
  | txTickStart =>
    obtain ⟨_, _, -, rfl⟩ := execTxTickStart_next h
    rfl
  | txTickStop =>
    obtain ⟨-, he⟩ | ⟨-, he⟩ := execTxTickStop_cases s <;> cases he.symm.trans h <;> rfl
  | _ => cases h; rfl

/-- The edge sub-step leaves the line's level in `rx_prev`, whether or not an edge is taken. -/
theorem edgeSubstep_rx_prev {s t : State} (h : edgeSubstep s = .next t) : t.rx_prev = s.rx_i := by
  obtain ⟨-, -, -, he⟩ | ⟨-, he⟩ := edgeSubstep_cases s <;> cases he.symm.trans h <;> rfl

/-- The transmit sub-step keeps `rx_prev`. -/
theorem txSubstep_rx_prev {s t : State} (h : txSubstep s = .next t) : t.rx_prev = s.rx_prev := by
  obtain ⟨-, he⟩ | ⟨-, -, he⟩ | ⟨-, -, he⟩ := txSubstep_cases s
  · cases he.symm.trans h; rfl
  · simpa using exec_rx_prev (he.symm.trans h)
  · cases he.symm.trans h; rfl

/-- The host sub-step keeps `rx_prev`, INIT included. -/
theorem hostSubstep_rx_prev {s t : State} (h : hostSubstep s = .next t) : t.rx_prev = s.rx_prev := by
  obtain ⟨-, he⟩ | ⟨-, i, -, he⟩ | ⟨-, -, he⟩ := hostSubstep_cases s
  · cases he.symm.trans h; rfl
  · exact exec_rx_prev (he.symm.trans h)
  · cases he.symm.trans h; rfl

/-- A cycle leaves the line's level in `rx_prev`, or 1 if it is a reset cycle. -/
theorem step_rx_prev {s t : State} (h : step s = .next t) : t.rx_prev = if s.input.rst then true else s.input.rx_i := by
  obtain ⟨-, ⟨hrst, rfl⟩ | ⟨hrst, a, b, c, d, ha, hb, hc, hd, rfl⟩⟩ := step_next h
  · simp [hrst]
  · calc d.rx_prev = c.rx_prev := hostSubstep_rx_prev hd
      _ = b.rx_prev := txSubstep_rx_prev hc
      _ = a.rx_i := edgeSubstep_rx_prev hb
      _ = s.rx_i := rx_i_congr (rxSubstep_inputs ha)
      _ = if s.input.rst then true else s.input.rx_i := by simp [hrst, State.rx_i]

/-- Settles O36, from what a cycle leaves in `rx_prev` and what instructions do not write. -/
theorem previousLevelFollowsTheLine : Obligations.PreviousLevelFollowsTheLine :=
  ⟨fun s t h hrst => by simpa [hrst] using step_rx_prev h, fun s t h hrst => by simpa [hrst] using step_rx_prev h,
    fun _ _ _ h => exec_rx_prev h⟩

end Sys2Proof.Machine

/-! PROOFS of the family 43_rx_sampler.md: the RX tick handlers (O26, O27, O28). A BIT tick is the sample alone, or the sample, the
push of the sampled byte and the step to STOP; what it does to each bit and to each slot is then the law of `setBit` and those of
`Ring.put`. -/

namespace Sys2Proof.Machine

/-! ## The Bit tick (R112, R113) -/

/-- Before bit 7 the tick only samples. -/
theorem rxTickBit_inner {s : State} (h : s.rx_idx ≠ 7#3) : exec .rxTickBit s = .next s.sampleBit :=
  congrArg Host.Outcome.next (if_neg h)

/-- At bit 7 the sampled byte is put into the RX buffer, and the machine goes to STOP. -/
theorem rxTickBit_last {s : State} (h : s.rx_idx = 7#3) :
    exec .rxTickBit s = .next { s.sampleBit.setRing .rx (Ring.put .rx s.par.RX_CAP s.sampleBit.rx_shift s.rxb) with
      rx_state := .stop } :=
  congrArg Host.Outcome.next (if_pos h)

/-- A put, with room or without, whose head is a slot wherever it stores. -/
theorem Ring.put_eq {cap : Nat} {r : Ring} (b : Side) (v : Byte) (hh : r.count < cap → r.head < cap) :
    Ring.put b cap v r =
      if r.count < cap then
        { r with mem := Memory.write r.mem r.head v, head := nextSlot cap r.head, count := r.count + 1 }
      else r := by
  split
  · next hc => exact Ring.put_room b v hc (hh hc)
  · next hc => exact Ring.put_full b v (Nat.le_of_not_lt hc)

/-- The bytes a BIT tick leaves in the RX storage: at bit 7 and with room, the head slot takes the sampled byte. -/
theorem rxTickBit_read {s t : State} (hm : s.rxb.mem.wf = true) (hh : s.rxb.head < s.par.RX_CAP)
    (h : exec .rxTickBit s = .next t) (j : Nat) :
    Memory.read t.rxb.mem j =
      if s.rx_idx = 7#3 ∧ s.rxb.count < s.par.RX_CAP ∧ j = s.rxb.head then t.rx_shift else Memory.read s.rxb.mem j := by
  obtain ⟨hi, rfl⟩ | ⟨hi, _, rfl, rfl⟩ := execRxTickBit_next h
  · simp [hi]
  · simp [hi, Ring.read_put hm, slotStored_of_lt hh, hh]

/-- A BIT tick keeps the TX buffer. -/
theorem rxTickBit_txb {s t : State} (h : exec .rxTickBit s = .next t) : t.txb = s.txb := by
  obtain ⟨-, rfl⟩ | ⟨-, _, -, rfl⟩ := execRxTickBit_next h <;> rfl

/-! ## The obligations -/

/-- Settles O26: both handlers are their rule's writes, and neither reads the line. -/
theorem rxStartTickClears : Obligations.RxStartTickClears :=
  ⟨fun _ => rfl, fun _ => rfl⟩

/-- Settles O27: the byte is the shift register after the sample; the index after bit 7 is `7 + 1` in three bits. -/
theorem rxBitTickSamplesOneBit : Obligations.RxBitTickSamplesOneBit := by
  refine ⟨fun s => ⟨s.sampleBit.rx_shift, fun j hj => getLsbD_setBit s.rx_shift s.rx_idx s.rx_i j hj,
    fun hi => rxTickBit_inner hi, fun hi hh => ?_⟩, fun s t j hm hh h => ⟨?_, rxTickBit_read hm hh h j⟩⟩
  · have hwrap : s.rx_idx + 1#3 = 0#3 := by rw [hi]; rfl
    rw [rxTickBit_last hi, Ring.put_eq .rx _ hh]
    simp only [State.setRing, State.sampleBit, hwrap, nextSlot]
  · rw [rxTickBit_txb h]

/-- Settles O28: the handler is its rule's writes and does not read the line; DISARM is `setGen` on the RX side, which writes that
generator alone. -/
theorem rxStopTickReenables : Obligations.RxStopTickReenables :=
  fun _ => rfl

end Sys2Proof.Machine

/-! PROOFS of the family 44_tx_driver.md: the TX tick handlers (O29, O30, O31) and the cycles that hold the line (O34). The
receive sub-steps keep the transmit side as a whole, so in a cycle `tx_o` has two possible writers: the tick that the TX generator
fires, and INIT, whose one word is 0x1000. -/

namespace Sys2Proof

/-! ## The word of INIT (R61) -/

/-- A word that decodes matches a row of R61's table, and is what that row makes of its `data` (R63). -/
theorem row_of_decodeCmd {w : CmdWord} {i : Instr} (h : decodeCmd w = .ok i) :
    ∃ r ∈ cmdTable, w &&& r.mask = r.pat ∧ r.make (dataField w) = i := by
  unfold decodeCmd at h
  split at h
  next r hr =>
    cases h
    exact ⟨r, List.mem_of_find?_eq_some hr, by simpa using List.find?_some hr, rfl⟩
  next => cases h

/-- Only the row of INIT makes INIT, and it fixes all 16 bits. -/
theorem word_of_decodeCmd_init {w : CmdWord} (h : decodeCmd w = .ok .init) : w = 0x1000#16 := by
  obtain ⟨r, hr, hm, hi⟩ := row_of_decodeCmd h
  have hrow : ∀ r ∈ cmdTable, r.make (dataField w) = .init → r.pat = 0x1000#16 ∧ r.mask = 0xFFFF#16 := by
    simp [cmdTable]
  obtain ⟨hpat, hmask⟩ := hrow r hr hi
  have hfull : w &&& 0xFFFF#16 = w := BitVec.and_allOnes
  rwa [hmask, hpat, hfull] at hm

namespace Machine

/-! ## The handlers (R122, R124) -/

/-- The Start tick sends the byte that `RB_GET(TX)` answers, whether or not one was queued. -/
theorem txTickStart_of_get {s : State} {vo : Byte × Bool} {q : Ring}
    (h : Ring.get .tx s.par.TX_CAP s.par.EMPTY_VALUE s.txb = (vo, q)) :
    exec .txTickStart s =
      .next { s.setRing .tx q with tx_o := false, tx_shift := vo.1, tx_idx := 0#3, tx_state := .bit } := by
  simp only [exec, execTxTickStart, rbGet_of_get (b := .tx) h]

/-- With a byte queued the Stop tick goes on to the next start bit. -/
theorem txTickStop_queued {s : State} (h : s.txb.count ≠ 0) :
    exec .txTickStop s = .next { s with tx_o := true, tx_state := .start } := by
  obtain ⟨h0, -⟩ | ⟨-, he⟩ := execTxTickStop_cases s
  · exact absurd h0 h
  · exact he

/-- With none queued the Stop tick disarms the generator. -/
theorem txTickStop_empty {s : State} (h : s.txb.count = 0) :
    exec .txTickStop s = .next { s.setGen .tx Gen.off with tx_o := true, tx_state := .idle } := by
  obtain ⟨-, he⟩ | ⟨h0, -⟩ := execTxTickStop_cases s
  · exact he
  · exact absurd h h0

/-! ## The writers of `tx_o` (R23) -/

/-- Everything an instruction can do to `tx_o`. -/
theorem exec_tx_o_cases {i : Instr} {s t : State} (h : exec i s = .next t) :
    t.tx_o = s.tx_o ∨ i = .txTickStart ∨ i = .txTickBit ∨ i = .txTickStop ∨ i = .init := by
  cases i with
  | init | txTickStart | txTickBit | txTickStop => simp
  | getByte =>
    obtain ⟨_, _, -, rfl⟩ := execGetByte_next h
    exact .inl rfl
  | putByte d =>
    obtain ⟨_, -, rfl⟩ := execPutByte_next h
    left
    split <;> rfl
  | rxEdge st =>
    obtain ⟨-, -, -, -, he⟩ | ⟨-, he⟩ := execRxEdge_cases st s <;> cases he.symm.trans h <;> exact .inl rfl
  | rxTickBit =>
    obtain ⟨-, rfl⟩ | ⟨-, _, -, rfl⟩ := execRxTickBit_next h <;> exact .inl rfl
  | _ => cases h; exact .inl rfl

/-- A command that changes `tx_o` is INIT. -/
theorem command_tx_o {i : Instr} {s t : State} (hi : i.isCommand = true) (hinit : i ≠ .init) (h : exec i s = .next t) :
    t.tx_o = s.tx_o := by
  obtain ho | rfl | rfl | rfl | rfl := exec_tx_o_cases h
  · exact ho
  · cases hi
  · cases hi
  · cases hi
  · exact absurd rfl hinit

/-! ## The transmit side in the sub-steps of a cycle (R95, R125) -/

/-- No tick of the receive machine touches the transmit side. -/
theorem rxTick_txView {st : Fsm} {s t : State} (h : exec (rxTickOf st) s = .next t) : t.txView = s.txView := by
  cases st with
  | idle | start | stop => cases h; rfl
  | bit => obtain ⟨-, rfl⟩ | ⟨-, _, -, rfl⟩ := execRxTickBit_next h <;> rfl

theorem rxSubstep_txView {s t : State} (h : rxSubstep s = .next t) : t.txView = s.txView := by
  obtain ⟨-, he⟩ | ⟨-, -, he⟩ | ⟨-, -, he⟩ := rxSubstep_cases s
  · cases he.symm.trans h; rfl
  · exact (rxTick_txView (he.symm.trans h)).trans rfl
  · cases he.symm.trans h; rfl

theorem edgeSubstep_txView {s t : State} (h : edgeSubstep s = .next t) : t.txView = s.txView := by
  obtain ⟨-, -, -, he⟩ | ⟨-, he⟩ := edgeSubstep_cases s <;> cases he.symm.trans h <;> rfl

/-- In a cycle in which the TX generator fires no Start, Bit or Stop tick, its sub-step keeps the line: an Idle tick does not
drive it. -/
theorem txSubstep_tx_o {s t : State} (hno : ¬(s.txg.act = true ∧ s.txg.cnt = 1 ∧ s.tx_state ≠ .idle))
    (h : txSubstep s = .next t) : t.tx_o = s.tx_o := by
  obtain ⟨-, he⟩ | ⟨hg, h1, he⟩ | ⟨-, -, he⟩ := txSubstep_cases s
  · cases he.symm.trans h; rfl
  · have hidle : s.tx_state = .idle := by_contra fun hst => hno ⟨hg, h1, hst⟩
    rw [hidle] at he
    cases he.symm.trans h; rfl
  · cases he.symm.trans h; rfl

/-- The host sub-step keeps the line unless the word of INIT is presented. -/
theorem hostSubstep_tx_o {s t : State} (hno : s.input.cmd_valid = true → s.input.cmd ≠ 0x1000#16)
    (h : hostSubstep s = .next t) : t.tx_o = s.tx_o := by
  obtain ⟨-, he⟩ | ⟨hv, i, hi, he⟩ | ⟨-, -, he⟩ := hostSubstep_cases s
  · cases he.symm.trans h; rfl
  · have hinit : i ≠ .init := by
      rintro rfl
      exact hno hv (word_of_decodeCmd_init hi)
    exact command_tx_o (isCommand_of_decodeCmd hi) hinit (he.symm.trans h)
  · cases he.symm.trans h; rfl

/-- A cycle without reset, INIT and a Start, Bit or Stop tick holds the line (R125). -/
theorem step_tx_o {s t : State} (h : step s = .next t) (hrst : s.input.rst = false) (hinit : ¬s.issues 0x1000#16)
    (hno : ¬(s.txg.act = true ∧ s.txg.cnt = 1 ∧ s.tx_state ≠ .idle)) : t.tx_o = s.tx_o := by
  obtain ⟨hl, ⟨hreset, -⟩ | ⟨-, a, b, c, d, ha, hb, hc, hd, rfl⟩⟩ := step_next h
  · cases hreset.symm.trans hrst
  · have hview : b.txView = s.txView := (edgeSubstep_txView hb).trans (rxSubstep_txView ha)
    have hg : b.txg = s.txg := congrArg TxView.txg hview
    have hst : b.tx_state = s.tx_state := congrArg TxView.tx_state hview
    have hin : c.input = s.input :=
      input_congr ((txSubstep_inputs hc).trans ((edgeSubstep_inputs hb).trans (rxSubstep_inputs ha)))
    calc d.tx_o = c.tx_o := hostSubstep_tx_o (hin ▸ fun hv hw => hinit ⟨hl, hrst, hv, hw⟩) hd
      _ = b.tx_o := txSubstep_tx_o (by rwa [hg, hst]) hc
      _ = s.tx_o := congrArg TxView.tx_o hview

/-! ## The obligations -/

/-- Settles O34: an instruction that changes `tx_o` is in one of the other cases of `exec_tx_o_cases`; the cycle is
`step_tx_o`. -/
theorem lineHeldBetweenTicks : Obligations.LineHeldBetweenTicks :=
  ⟨fun _ _ _ h hne => (exec_tx_o_cases h).resolve_left hne, fun _ _ h hrst hinit hno => step_tx_o h hrst hinit hno⟩

/-- Settles O29: the Idle tick is its rule's one write; the Start tick's two cases are the two laws of `Ring.get`. -/
theorem txStartTickPopsAByte : Obligations.TxStartTickPopsAByte :=
  ⟨fun _ => rfl, fun _ hc ht => txTickStart_of_get (Ring.get_byte .tx _ hc ht),
    fun _ hc => txTickStart_of_get (Ring.get_empty .tx _ hc)⟩

/-- Settles O30: the handler is its rule's writes, and `getBit` reads the bit of that index. -/
theorem txBitTickDrivesOneBit : Obligations.TxBitTickDrivesOneBit :=
  fun _ => rfl

/-- Settles O31: DISARM is `setGen` on the TX side, which writes that generator alone. -/
theorem txStopTickLoopsOrDisarms : Obligations.TxStopTickLoopsOrDisarms :=
  ⟨fun _ h => txTickStop_queued h, fun _ h => txTickStop_empty h⟩

end Machine

end Sys2Proof

/-! PROOFS of the family 45_facade.md: the nine host commands (O19 to O24). In a cycle that presents a word, what its command
answers is what the cycle leaves (`step_of_issues`), so each statement is one about the command alone: GET_BYTE and PUT_BYTE are
the laws of `Ring.get` and `Ring.put`, the queries and STATUS read the conditions R82 and R83. -/

namespace Sys2Proof

/-! ## The words of PUT_BYTE (R61) -/

/-- Each word of `op` 0x5 with `rsv` 0 is the PUT_BYTE of its `data`: of R61's rows only that of PUT_BYTE has that `op`. -/
theorem decodeCmd_of_op_five {w : CmdWord} (hop : opField w = 0x5#4) (hrsv : rsvField w = 0x0#4) :
    decodeCmd w = .ok (.putByte (dataField w)) := by
  have hput : w &&& 0xFF00#16 = 0x5000#16 := (putByteRow_matches_iff w).mpr ⟨hop, hrsv⟩
  have hother : ∀ p, opField p ≠ 0x5#4 → w &&& 0xFFFF#16 ≠ p := by
    rintro p hp rfl
    exact hp ((congrArg opField (BitVec.and_allOnes : w &&& 0xFFFF#16 = w)).trans hop)
  simp [decodeCmd, cmdTable, hput, hother 0x0000#16 (by decide), hother 0x1000#16 (by decide),
    hother 0x2000#16 (by decide), hother 0x3000#16 (by decide), hother 0x4000#16 (by decide)]

/-- The word 0x50dd is PUT_BYTE dd. -/
theorem decodeCmd_putByte (d : Byte) : decodeCmd (0x50#8 ++ d) = .ok (.putByte d) := by
  have hop : opField (0x50#8 ++ d) = 0x5#4 := BitVec.extractLsb'_append_eq_of_le (by decide)
  have hrsv : rsvField (0x50#8 ++ d) = 0x0#4 := BitVec.extractLsb'_append_eq_of_le (by decide)
  have hdata : dataField (0x50#8 ++ d) = d := BitVec.extractLsb'_append_eq_right
  rw [decodeCmd_of_op_five hop hrsv, hdata]

namespace Machine

/-! ## A cycle that presents a command (R150) -/

/-- In a cycle without reset, `rsp_valid` ends at `cmd_valid` (R26). -/
theorem step_rsp_valid {s t : State} (h : step s = .next t) (hrst : s.input.rst = false) :
    t.rsp_valid = s.input.cmd_valid := by
  obtain ⟨-, ⟨hreset, -⟩ | ⟨-, a, b, c, d, ha, hb, hc, hd, rfl⟩⟩ := step_next h
  · cases hreset.symm.trans hrst
  · have hin : d.inputs = s.inputs :=
      (hostSubstep_inputs hd).trans ((txSubstep_inputs hc).trans ((edgeSubstep_inputs hb).trans (rxSubstep_inputs ha)))
    exact congrArg Input.cmd_valid (input_congr hin)

/-- A cycle that presents the word of `i` runs the tick side, then `i` on what that left, then the end of the cycle. -/
theorem step_of_issues {w : CmdWord} {i : Instr} {s t : State} (hi : decodeCmd w = .ok i) (hw : s.issues w)
    (h : step s = .next t) : ∃ c u, tickSide s = .next c ∧ exec i c = .next u ∧ t = u.endCycle := by
  obtain ⟨-, hrst, hvalid, rfl⟩ := hw
  obtain ⟨-, ⟨hreset, -⟩ | ⟨-, a, b, c, u, ha, hb, hc, hu, rfl⟩⟩ := step_next h
  · cases hreset.symm.trans hrst
  · have hin : c.input = s.input :=
      input_congr ((txSubstep_inputs hc).trans ((edgeSubstep_inputs hb).trans (rxSubstep_inputs ha)))
    refine ⟨c, u, by simp [tickSide, ha, hb, hc], ?_, rfl⟩
    simpa [hostSubstep, hin, hvalid, hi] using hu

/-- A cycle that presents a word ends with a valid response (R26). -/
theorem State.issues.rsp_valid {w : CmdWord} {s t : State} (hw : s.issues w) (h : step s = .next t) : t.rsp_valid = true := by
  obtain ⟨-, hrst, hvalid, -⟩ := hw
  exact (step_rsp_valid h hrst).trans hvalid

/-! ## GET_BYTE and PUT_BYTE (R133, R136) -/

/-- GET_BYTE answers what `RB_GET(RX)` answers: the byte as data, and whether there was one as flag. -/
theorem getByte_of_get {s : State} {vo : Byte × Bool} {q : Ring}
    (h : Ring.get .rx s.par.RX_CAP s.par.EMPTY_VALUE s.rxb = (vo, q)) :
    exec .getByte s = .next ((s.setRing .rx q).respond vo.1 vo.2) := by
  simp only [exec, execGetByte, rbGet_of_get (b := .rx) h]

/-- PUT_BYTE, by the fields it writes: the TX buffer by `RB_PUT`, the TX generator if that is inactive, and the response. -/
theorem putByte_eq (d : Byte) (s : State) :
    exec (.putByte d) s = .next { s with
      txb := Ring.put .tx s.par.TX_CAP d s.txb
      txg := if s.txg.act then s.txg else { act := true, cnt := s.par.TX_OFF }
      rsp_data := 0x00#8, rsp_flag := false, rsp_ill := false } := by
  simp only [exec, execPutByte]
  cases hact : s.txg.act <;> simp [State.rbPut, State.setRing, State.setGen, State.respond, hact]

/-! ## The status view (R30) -/

/-- The layout of the status view: bit 0 is RXE, bit 7 is 0. -/
theorem statusByte_getLsbD (s : State) :
    s.statusByte.getLsbD 0 = s.rbEmpty .rx ∧ s.statusByte.getLsbD 1 = s.rbFull .rx ∧
    s.statusByte.getLsbD 2 = s.rbEmpty .tx ∧ s.statusByte.getLsbD 3 = s.rbFull .tx ∧
    s.statusByte.getLsbD 4 = s.txg.act ∧ s.statusByte.getLsbD 5 = s.rxg.act ∧
    s.statusByte.getLsbD 6 = s.edge_en ∧ s.statusByte.getLsbD 7 = false := by
  simp only [State.statusByte, active_rx, active_tx, BitVec.getLsbD_append, BitVec.getLsbD_ofBool]
  simp

/-- At reset RXE, TXE and EDG are set and nothing else: no legal buffer has capacity 0, so an empty one is not full. -/
theorem statusByte_resetOf {p : Params} (hp : p.legal = true) : (State.resetOf p).statusByte = 0x45#8 := by
  obtain ⟨-, -, -, -, -, hrx, htx⟩ := p.legal_iff.mp hp
  have hrx0 : (0 == p.RX_CAP) = false := beq_false_of_ne (Nat.ne_of_lt hrx)
  have htx0 : (0 == p.TX_CAP) = false := beq_false_of_ne (Nat.ne_of_lt htx)
  simp [State.statusByte, State.rbEmpty, State.rbFull, State.resetOf, Ring.empty, hrx0, htx0]

/-! ## The obligations -/

/-- Settles O19: NOP is its rule's response, and no later sub-step of its cycle touches `rsp_data`, `rsp_flag` or `rsp_ill`. -/
theorem nopOnlyAnswers : Obligations.NopOnlyAnswers := by
  have hdec : decodeCmd 0x0000#16 = .ok .nop := by decide
  refine ⟨hdec, fun _ => rfl, fun s t hw h => ?_⟩
  obtain ⟨c, _, -, hu, rfl⟩ := step_of_issues hdec hw h
  cases hu
  exact ⟨hw.rsp_valid h, rfl, rfl, rfl⟩

/-- Settles O20: INIT is `initBlock` and a response, on whatever the tick side left; `rx_prev` is not INIT's to write. -/
theorem initReinitialises : Obligations.InitReinitialises := by
  have hdec : decodeCmd 0x1000#16 = .ok .init := by decide
  refine ⟨hdec, fun _ => rfl, fun s t hw h => ?_⟩
  obtain ⟨c, _, -, hu, rfl⟩ := step_of_issues hdec hw h
  cases hu
  obtain ⟨-, hrst, -, -⟩ := hw
  exact ⟨rfl, rfl, rfl, rfl, rfl, rfl, rfl, rfl, by simpa [hrst] using step_rx_prev h⟩

/-- Settles O21, from the two laws of `Ring.get`, and in its cycle from `step_of_issues`. -/
theorem getByteAnswersTheOldestByte : Obligations.GetByteAnswersTheOldestByte := by
  have hdec : decodeCmd 0x2000#16 = .ok .getByte := by decide
  refine ⟨hdec, fun _ hc => getByte_of_get (Ring.get_empty .rx _ hc),
    fun _ hc ht => getByte_of_get (Ring.get_byte .rx _ hc ht), fun s t hw h => ?_⟩
  obtain ⟨c, u, hc, hu, rfl⟩ := step_of_issues hdec hw h
  obtain ⟨_, _, _, rfl⟩ := command_responds rfl hu
  exact ⟨c, _, hc, hu, rfl, rfl, rfl, rfl, hw.rsp_valid h⟩

/-- Settles O22: each query is a response with `rbEmpty` or `rbFull` of its side, which compare the count by definition. -/
theorem queriesAnswerTheCounts : Obligations.QueriesAnswerTheCounts :=
  ⟨by decide, by decide, by decide, by decide, fun _ => ⟨rfl, rfl, rfl, rfl⟩⟩

/-- Settles O23: the push is `Ring.put`, whose effect and slot frame are the laws of 40_ringbuffer.md. -/
theorem putBytePushesAndArms : Obligations.PutBytePushesAndArms := by
  refine ⟨decodeCmd_putByte, fun d s hh => ?_, fun d s t j hm hh h => ?_⟩
  · rw [putByte_eq, Ring.put_eq .tx d hh]
    rfl
  · cases (putByte_eq d s).symm.trans h
    exact ⟨rfl, by simp [Ring.read_put hm, slotStored_of_lt hh, hh]⟩

/-- Settles O24: STATUS answers `statusByte`, whose bits are `statusByte_getLsbD`. -/
theorem statusShowsTheStatusView : Obligations.StatusShowsTheStatusView :=
  ⟨by decide, fun s => ⟨s.statusByte, rfl, statusByte_getLsbD s⟩, fun _ hp => ⟨_, rfl, statusByte_resetOf hp⟩⟩

end Machine

end Sys2Proof

/-! PROOFS of the family 46_cycle_step.md: the output ports (O5). They are five registers, so no other element of the state, the
input levels among them, shows on a port. -/

namespace Sys2Proof.Machine

/-- R156: states that agree on the five output registers show the same on the ports, whatever else differs. -/
theorem outputs_congr {s t : State} (htx : t.tx_o = s.tx_o) (hvalid : t.rsp_valid = s.rsp_valid) (hdata : t.rsp_data = s.rsp_data)
    (hflag : t.rsp_flag = s.rsp_flag) (hill : t.rsp_ill = s.rsp_ill) : t.outputs = s.outputs := by
  simp only [State.outputs, htx, hvalid, hdata, hflag, hill]

/-- Settles O5: the ports are the five registers by definition, and other input levels leave all five as they are. -/
theorem outputsAreRegisters : Obligations.OutputsAreRegisters :=
  fun _ _ => ⟨rfl, rfl, rfl, rfl, rfl, outputs_congr rfl rfl rfl rfl rfl⟩

end Sys2Proof.Machine

/-! PROOFS of the family 70_reset_and_hazards.md: the schedule of a received frame and its single arm (O50). After the RX sub-step
of a cycle without INIT and reset only GET_BYTE writes the receive side, and only its buffer; a receiver in a frame takes no edge.
So a frame is what the RX sub-step makes of it, cycle by cycle: `RxFrameAt` says where in it the receiver stands, by the ticks it
has fired, and the sub-step moves it one cycle on. -/

namespace Sys2Proof.Machine

/-! ## The input levels along a run -/

/-- The levels a run of `n` cycles has come to. -/
theorem cycles_input {n : Nat} {s t : State} (h : cycles n s = .next t) : t.input = s.inputAt n := by
  induction n generalizing s with
  | zero => rw [← next_inj h, inputAt_zero]
  | succ n ih =>
    rw [cycles_succ, andThen_eq_next] at h
    obtain ⟨u, hu, ht⟩ := h
    rw [ih ht, inputAt_tail (step_inputs hu)]

/-- What does not come in the next `n` cycles does not come in one of them. -/
theorem State.without.after {bad : CmdWord → Bool} {k n : Nat} {s t : State} (h : s.without bad n) (hk : k < n)
    (hrun : cycles k s = .next t) : t.without bad 1 := by
  intro m hm
  obtain rfl : m = 0 := Nat.lt_one_iff.mp hm
  rw [inputAt_zero, cycles_input hrun]
  exact h k hk

/-! ## The receive side after sub-step 1 (R95, R170) -/

/-- No tick of the transmit machine touches the receive side. -/
theorem txTick_rxView {st : Fsm} {s t : State} (h : exec (txTickOf st) s = .next t) : t.rxView = s.rxView := by
  cases st with
  | idle | bit => cases h; rfl
  | start => obtain ⟨_, _, -, rfl⟩ := execTxTickStart_next h; rfl
  | stop => obtain ⟨-, he⟩ | ⟨-, he⟩ := execTxTickStop_cases s <;> cases he.symm.trans h <;> rfl

/-- Sub-step 3 completes and keeps the receive side. -/
theorem txSubstep_completes (s : State) : ∃ t, txSubstep s = .next t ∧ t.rxView = s.rxView := by
  obtain ⟨-, he⟩ | ⟨-, -, he⟩ | ⟨-, -, he⟩ := txSubstep_cases s
  · exact ⟨_, he, rfl⟩
  · obtain ⟨t, ht⟩ := exec_completes (txTickOf s.tx_state) (s.setGen .tx { act := true, cnt := s.par.P })
    exact ⟨t, he.trans ht, (txTick_rxView ht).trans rfl⟩
  · exact ⟨_, he, rfl⟩

/-- Of the receive side a command that is not INIT writes the buffer at most. -/
theorem command_rxView {i : Instr} {s t : State} (hi : i.isCommand = true) (hinit : i ≠ .init) (h : exec i s = .next t) :
    t.rxView = { s.rxView with rxb := t.rxb } := by
  cases i with
  | init => exact absurd rfl hinit
  | getByte => obtain ⟨_, _, -, rfl⟩ := execGetByte_next h; rfl
  | putByte d => cases (putByte_eq d s).symm.trans h; rfl
  | nop | rxEmpty | txEmpty | rxFull | txFull | status => cases h; rfl
  | _ => cases hi

/-- Sub-step 4 completes and, without INIT, writes of the receive side the buffer at most. -/
theorem hostSubstep_completes {s : State} (hno : s.without isInit 1) :
    ∃ t, hostSubstep s = .next t ∧ t.rxView = { s.rxView with rxb := t.rxb } := by
  obtain ⟨-, he⟩ | ⟨hv, i, hi, he⟩ | ⟨-, -, he⟩ := hostSubstep_cases s
  · exact ⟨_, he, rfl⟩
  · obtain ⟨t, ht⟩ := exec_completes i s
    have hinit : i ≠ .init := by
      rintro rfl
      obtain ⟨-, hw⟩ := hno 0 Nat.one_pos
      rw [inputAt_zero, word_of_decodeCmd_init hi] at hw
      exact Bool.noConfusion (hw hv)
    exact ⟨t, he.trans ht, command_rxView (isCommand_of_decodeCmd hi) hinit ht⟩
  · exact ⟨_, he, rfl⟩

/-- A cycle without INIT and reset completes, and of what its first two sub-steps leave on the receive side the rest of it writes
the buffer at most. -/
theorem step_completes_after_edge {s a b : State} (hl : s.par.legal = true) (hno : s.without isInit 1)
    (ha : rxSubstep s = .next a) (hb : edgeSubstep a = .next b) :
    ∃ t, step s = .next t ∧ t.rxView = { b.rxView with rxb := t.rxb } := by
  obtain ⟨c, hc, hcv⟩ := txSubstep_completes b
  have hin : c.inputs = s.inputs :=
    (txSubstep_inputs hc).trans ((edgeSubstep_inputs hb).trans (rxSubstep_inputs ha))
  obtain ⟨d, hd, hdv⟩ := hostSubstep_completes (s := c) fun k hk => by rw [inputAt_congr hin]; exact hno k hk
  obtain ⟨hrst, -⟩ := hno 0 Nat.one_pos
  rw [inputAt_zero] at hrst
  exact ⟨_, step_of_substeps hl hrst ha hb hc hd, hcv ▸ hdv⟩

/-- While the receiver does not listen, the edge sub-step only notes the level: no edge starts a frame (R102). -/
theorem edgeSubstep_not_listening {s : State} (h : s.edge_en = false) : edgeSubstep s = .next s.noteLevel := by
  obtain ⟨-, hen, -⟩ | ⟨-, he⟩ := edgeSubstep_cases s
  · cases h.symm.trans hen
  · exact he

/-! ## The RX sub-step -/

theorem rxSubstep_rx_prev {s t : State} (h : rxSubstep s = .next t) : t.rx_prev = s.rx_prev := by
  obtain ⟨-, he⟩ | ⟨-, -, he⟩ | ⟨-, -, he⟩ := rxSubstep_cases s
  · cases he.symm.trans h; rfl
  · simpa using exec_rx_prev (he.symm.trans h)
  · cases he.symm.trans h; rfl

/-- With its generator counting, sub-step 1 counts down, or at count 1 reloads and runs the handler. -/
theorem rxSubstep_busy {s : State} (hs : s.Inv) (hg : s.rxg.act = true) :
    (2 ≤ s.rxg.cnt ∧ rxSubstep s = .next (s.setGen .rx { act := true, cnt := s.rxg.cnt - 1 })) ∨
    (s.rxg.cnt = 1 ∧ ∃ t, rxSubstep s = .next t ∧
      exec (rxTickOf s.rx_state) (s.setGen .rx { act := true, cnt := s.par.P }) = .next t) := by
  obtain ⟨h1, hP⟩ := hs.r28.rx_cnt hg
  obtain hc | hc : 2 ≤ s.rxg.cnt ∨ s.rxg.cnt = 1 := by omega
  · exact .inl ⟨hc, rxSubstep_down hg hc (hP.trans_lt s.par.P_lt_two_pow_CW)⟩
  · obtain ⟨t, ht⟩ := exec_completes (rxTickOf s.rx_state) (s.setGen .rx { act := true, cnt := s.par.P })
    exact .inr ⟨hc, t, (rxSubstep_fire hg hc).trans ht, ht⟩

/-- A BIT tick, by the registers it writes beside the buffer (R112, R113). -/
theorem rxTickBit_registers {s t : State} (h : exec .rxTickBit s = .next t) :
    t.rx_shift = setBit s.rx_shift s.rx_idx s.rx_i ∧ t.rx_idx = s.rx_idx + 1#3 ∧ t.rxg = s.rxg ∧
      t.rx_state = if s.rx_idx = 7#3 then .stop else s.rx_state := by
  obtain ⟨hi, rfl⟩ | ⟨hi, _, -, rfl⟩ := execRxTickBit_next h <;> simp [hi]

/-- Only the BIT tick of bit 7 pushes, once, the byte then in the shift register. -/
theorem rxTick_rxb {s t : State} (h : exec (rxTickOf s.rx_state) s = .next t) :
    t.rxb = if s.rx_state = .bit ∧ s.rx_idx = 7#3 then Ring.put .rx s.par.RX_CAP t.rx_shift s.rxb else s.rxb := by
  cases hst : s.rx_state <;> rw [hst] at h
  case bit => obtain ⟨hi, rfl⟩ | ⟨hi, _, rfl, rfl⟩ := execRxTickBit_next h <;> simp [hi]
  all_goals cases h; rfl

/-! ## Where in a frame the receiver stands -/

/-- The state of the receive machine after `j` ticks of a frame: the Start tick, eight Bit ticks, the Stop tick to come. -/
def framePhase : Nat → Fsm
  | 0 => .start
  | n + 1 => if n < 8 then .bit else .stop

theorem framePhase_ne_idle (j : Nat) : framePhase j ≠ .idle := by
  cases j with
  | zero => exact nofun
  | succ n => by_cases hn : n < 8 <;> simp [framePhase, hn]

/-- The receive side `v` at the start of cycle `k` of the frame whose edge is taken in the cycle of `s`, with `j` ticks fired: tick
`m` is due in cycle `RX_OFF + m*P`, and each Bit tick has sampled the line of its cycle. -/
structure RxFrameAt (s : State) (j k : Nat) (v : RxView) : Prop where
  state : v.rx_state = framePhase j
  due : k + v.rxg.cnt = s.par.RX_OFF + j * s.par.P + 1
  idx : ∀ n, j = n + 1 → v.rx_idx = BitVec.ofNat 3 n
  bits : ∀ i, i + 1 < j → v.rx_shift.getLsbD i = (s.inputAt (s.par.RX_OFF + (i + 1) * s.par.P)).rx_i

section
variable {s : State} {j k : Nat} {v : RxView} (h : RxFrameAt s j k v) (hv : v.Inv) (hpar : v.par = s.par)
include h hv

theorem RxFrameAt.busy : v.rxg.act = true := hv.busy.mpr (h.state ▸ framePhase_ne_idle j)

theorem RxFrameAt.not_listening : v.edge_en = false := hv.not_listening (h.state ▸ framePhase_ne_idle j)

include hpar

/-- The ticks fired are those that were due before cycle `k`, as the count is in `[1, P]`. -/
theorem RxFrameAt.tick_lt_iff (m : Nat) : s.par.RX_OFF + m * s.par.P < k ↔ m < j := by
  obtain ⟨h1, hP⟩ := hv.cnt (h.busy hv)
  rw [hpar] at hP
  have hdue := h.due
  constructor
  · intro hm
    have hmul : m * s.par.P < j * s.par.P := by omega
    exact Nat.lt_of_mul_lt_mul_right hmul
  · intro hm
    have hmul : (m + 1) * s.par.P ≤ j * s.par.P := Nat.mul_le_mul_right _ hm
    rw [Nat.succ_mul] at hmul
    omega

/-- Tick `m` is due in cycle `k` when `m` ticks are fired and the count is 1. -/
theorem RxFrameAt.at_tick_iff (m : Nat) : k = s.par.RX_OFF + m * s.par.P ↔ j = m ∧ v.rxg.cnt = 1 := by
  obtain ⟨h1, hP⟩ := hv.cnt (h.busy hv)
  rw [hpar] at hP
  have hdue := h.due
  constructor
  · intro hk
    have hle : ¬m < j := fun hm => absurd ((h.tick_lt_iff hv hpar m).mpr hm) (by omega)
    have hge : ¬j < m := by
      intro hm
      have hmul : (j + 1) * s.par.P ≤ m * s.par.P := Nat.mul_le_mul_right _ hm
      rw [Nat.succ_mul] at hmul
      omega
    obtain rfl : j = m := by omega
    exact ⟨rfl, by omega⟩
  · rintro ⟨rfl, hc⟩
    omega

/-- Up to the Start tick the machine is in START. -/
theorem RxFrameAt.in_start (hk : k ≤ s.par.RX_OFF) : v.rx_state = .start := by
  have hj : ¬0 < j := fun hm => absurd ((h.tick_lt_iff hv hpar 0).mpr hm) (by omega)
  rw [h.state, Nat.eq_zero_of_not_pos hj]
  rfl

/-- From the Start tick to the eighth Bit tick the machine is in BIT, and the index is the number of bit periods gone by. -/
theorem RxFrameAt.in_bit (hstart : s.par.RX_OFF < k) (hlast : k ≤ s.par.RX_OFF + 8 * s.par.P) :
    v.rx_state = .bit ∧ v.rx_idx.toNat = (k - 1 - s.par.RX_OFF) / s.par.P := by
  have hticks := h.tick_lt_iff hv hpar
  have hj0 : 0 < j := (hticks 0).mp (by omega)
  have hj8 : ¬8 < j := fun hm => absurd ((hticks 8).mpr hm) (by omega)
  obtain ⟨n, rfl⟩ : ∃ n, j = n + 1 := ⟨j - 1, by omega⟩
  have hn : n < 8 := by omega
  have hlo : s.par.RX_OFF + n * s.par.P < k := (hticks n).mpr (Nat.lt_succ_self n)
  have hhi : ¬s.par.RX_OFF + (n + 1) * s.par.P < k := fun hk => absurd ((hticks _).mp hk) (Nat.lt_irrefl _)
  refine ⟨h.state.trans (if_pos hn), ?_⟩
  rw [h.idx n rfl, Nat.div_eq_of_lt_le (k := n) (by omega) (by omega)]
  exact Nat.mod_eq_of_lt hn

/-- After the eighth Bit tick the machine is in STOP. -/
theorem RxFrameAt.in_stop (hk : s.par.RX_OFF + 8 * s.par.P < k) : v.rx_state = .stop := by
  have hj : 8 < j := (h.tick_lt_iff hv hpar 8).mp hk
  obtain ⟨n, rfl⟩ : ∃ n, j = n + 1 := ⟨j - 1, by omega⟩
  exact h.state.trans (if_neg (by omega))

/-- A bit whose tick is past is the level of the line in that tick's cycle. -/
theorem RxFrameAt.sampled {i : Nat} (hk : s.par.RX_OFF + (i + 1) * s.par.P < k) :
    v.rx_shift.getLsbD i = (s.inputAt (s.par.RX_OFF + (i + 1) * s.par.P)).rx_i :=
  h.bits i ((h.tick_lt_iff hv hpar (i + 1)).mp hk)

end

/-- The machine is at bit 7 exactly when eight ticks are fired, so the next is the eighth Bit tick. -/
theorem RxFrameAt.at_bit_seven_iff {s : State} {j k : Nat} {v : RxView} (h : RxFrameAt s j k v) :
    (v.rx_state = .bit ∧ v.rx_idx = 7#3) ↔ j = 8 := by
  rw [h.state]
  cases j with
  | zero => simp [framePhase]
  | succ n =>
    rw [h.idx n rfl]
    by_cases hn : n < 8
    · have hseven : BitVec.ofNat 3 n = 7#3 ↔ n + 1 = 8 := by bv_omega
      simpa [framePhase, hn] using hseven
    · have hne : n ≠ 7 := by omega
      simp [framePhase, hn, hne]

/-! ## The ticks of a frame -/

/-- A Bit tick samples into the bit its index names, and leaves the bits sampled before. -/
theorem RxFrameAt.bit_tick {s t u : State} {n k : Nat} (h : RxFrameAt s (n + 1) k t.rxView) (hn : n < 8) (h1 : t.rxg.cnt = 1)
    (hpar : t.par = s.par) (hline : t.rx_i = (s.inputAt k).rx_i)
    (hu : exec .rxTickBit (t.setGen .rx { act := true, cnt := t.par.P }) = .next u) : RxFrameAt s (n + 2) (k + 1) u.rxView := by
  obtain ⟨hshift, hidx, hg, hst⟩ := rxTickBit_registers hu
  have hstate : t.rx_state = .bit := h.state.trans (if_pos hn)
  have hn3 : t.rx_idx = BitVec.ofNat 3 n := h.idx n rfl
  have hto : t.rx_idx.toNat = n := by rw [hn3]; exact Nat.mod_eq_of_lt hn
  have hlast : t.rx_idx = 7#3 ↔ n = 7 := by rw [← hto]; exact BitVec.toNat_inj.symm
  have hdue : k + t.rxg.cnt = s.par.RX_OFF + (n + 1) * s.par.P + 1 := h.due
  have hmul : (n + 2) * s.par.P = (n + 1) * s.par.P + s.par.P := Nat.succ_mul _ _
  refine ⟨?_, ?_, ?_, fun i hi => ?_⟩
  · by_cases hn7 : n = 7
    · exact (hst.trans (if_pos (hlast.mpr hn7))).trans (if_neg (by omega)).symm
    · exact (hst.trans ((if_neg (mt hlast.mp hn7)).trans hstate)).trans (if_pos (by omega)).symm
  · change k + 1 + u.rxg.cnt = _
    rw [hg]
    change k + 1 + t.par.P = _
    rw [hpar]
    omega
  · intro m hm
    obtain rfl : m = n + 1 := by omega
    refine hidx.trans ?_
    simp [hn3, BitVec.ofNat_add]
  · refine (congrArg (BitVec.getLsbD · i) hshift).trans ((getLsbD_setBit _ _ _ i (by omega)).trans ?_)
    simp only [setGen_rx_idx, setGen_rx_i, setGen_rx_shift, hto, hline]
    split
    · next heq => subst heq; congr 2; omega
    · exact h.bits i (by omega)

/-- Every tick of the frame before the Stop tick takes the machine to its next phase. -/
theorem RxFrameAt.tick {s t u : State} {j k : Nat} (h : RxFrameAt s j k t.rxView) (hj : j ≤ 8) (h1 : t.rxg.cnt = 1)
    (hpar : t.par = s.par) (hline : t.rx_i = (s.inputAt k).rx_i)
    (hu : exec (rxTickOf t.rx_state) (t.setGen .rx { act := true, cnt := t.par.P }) = .next u) :
    RxFrameAt s (j + 1) (k + 1) u.rxView := by
  have hstate : t.rx_state = framePhase j := h.state
  rw [hstate] at hu
  cases j with
  | zero =>
    cases hu
    have hdue : k + t.rxg.cnt = s.par.RX_OFF + 0 * s.par.P + 1 := h.due
    refine ⟨rfl, ?_, fun n hn => ?_, fun i hi => absurd hi (by omega)⟩
    · change k + 1 + t.par.P = _
      rw [hpar]
      omega
    · obtain rfl : n = 0 := by omega
      rfl
  | succ n =>
    have hbit : framePhase (n + 1) = .bit := if_pos hj
    rw [hbit] at hu
    exact h.bit_tick hj h1 hpar hline hu

/-- Until the Stop tick the RX sub-step moves the frame one cycle on, by the count or by a tick. -/
theorem RxFrameAt.rxSubstep_next {s t : State} {j k : Nat} (h : RxFrameAt s j k t.rxView) (ht : t.Inv)
    (hpar : t.par = s.par) (hline : t.rx_i = (s.inputAt k).rx_i) (hk : k < s.par.RX_OFF + 9 * s.par.P) :
    ∃ i u, rxSubstep t = .next u ∧ RxFrameAt s i (k + 1) u.rxView := by
  have hdue : k + t.rxg.cnt = s.par.RX_OFF + j * s.par.P + 1 := h.due
  obtain ⟨hc, he⟩ | ⟨h1, u, he, hu⟩ := rxSubstep_busy ht (h.busy ht.rx)
  · refine ⟨j, _, he, h.state, ?_, h.idx, h.bits⟩
    change k + 1 + (t.rxg.cnt - 1) = _
    omega
  · have hj : j < 9 := Nat.lt_of_mul_lt_mul_right (a := s.par.P) (by omega)
    exact ⟨j + 1, u, he, h.tick (Nat.lt_succ_iff.mp hj) h1 hpar hline hu⟩

/-- Cycle `RX_OFF + 9*P` runs the Stop tick, which disarms and listens again (R114). -/
theorem RxFrameAt.rxSubstep_stop {s t : State} {j k : Nat} (h : RxFrameAt s j k t.rxView) (ht : t.Inv) (hpar : t.par = s.par)
    (hk : k = s.par.RX_OFF + 9 * s.par.P) :
    ∃ u, rxSubstep t = .next u ∧ u.rx_state = .idle ∧ u.edge_en = true ∧ u.rxg.act = false := by
  obtain ⟨rfl, hc⟩ := (h.at_tick_iff ht.rx hpar 9).mp hk
  have hstate : t.rx_state = .stop := h.state
  have he := rxSubstep_fire (h.busy ht.rx) hc
  rw [hstate] at he
  exact ⟨_, he, rfl, rfl, rfl⟩

/-- What the RX sub-step does in a frame: it moves the frame one cycle on, or is the Stop tick. -/
theorem RxFrameAt.rxSubstep_next_or_stop {s t : State} {j k : Nat} (h : RxFrameAt s j k t.rxView) (ht : t.Inv)
    (hpar : t.par = s.par) (hline : t.rx_i = (s.inputAt k).rx_i) (hk : k ≤ s.par.RX_OFF + 9 * s.par.P) :
    ∃ u, rxSubstep t = .next u ∧ (k < s.par.RX_OFF + 9 * s.par.P → ∃ i, RxFrameAt s i (k + 1) u.rxView) ∧
      (k = s.par.RX_OFF + 9 * s.par.P → u.rx_state = .idle ∧ u.edge_en = true ∧ u.rxg.act = false) := by
  obtain hlt | heq := Nat.lt_or_eq_of_le hk
  · obtain ⟨i, u, hu, hframe⟩ := h.rxSubstep_next ht hpar hline hlt
    exact ⟨u, hu, fun _ => ⟨i, hframe⟩, fun heq => absurd heq (Nat.ne_of_lt hlt)⟩
  · obtain ⟨u, hu, hstop⟩ := h.rxSubstep_stop ht hpar heq
    exact ⟨u, hu, fun hlt => absurd heq (Nat.ne_of_lt hlt), fun _ => hstop⟩

/-- In a frame the RX sub-step pushes in the cycle of the eighth Bit tick, once, the byte sampled, and in no other. -/
theorem RxFrameAt.rxSubstep_rxb {s t u : State} {j k : Nat} (h : RxFrameAt s j k t.rxView) (ht : t.Inv) (hpar : t.par = s.par)
    (hu : rxSubstep t = .next u) :
    u.rxb = if k = s.par.RX_OFF + 8 * s.par.P then Ring.put .rx s.par.RX_CAP u.rx_shift t.rxb else t.rxb := by
  have hpush : k = s.par.RX_OFF + 8 * s.par.P ↔ j = 8 ∧ t.rxg.cnt = 1 := h.at_tick_iff ht.rx hpar 8
  obtain ⟨hc, he⟩ | ⟨hc, _, he, htick⟩ := rxSubstep_busy ht (h.busy ht.rx) <;> cases he.symm.trans hu
  · have hne : t.rxg.cnt ≠ 1 := by omega
    simp [hpush, hne]
  · have hbit7 : (t.rx_state = .bit ∧ t.rx_idx = 7#3) ↔ j = 8 := h.at_bit_seven_iff
    simpa [hbit7, hpush, hc, hpar] using rxTick_rxb (s := t.setGen .rx { act := true, cnt := t.par.P }) htick

/-! ## The run -/

/-- The cycle in which an edge is taken leaves the receiver in START, armed for the Start tick (R101). -/
theorem rxFrameAt_first {s : State} (hs : s.Inv) (hfall : s.fall = true) (hlisten : ∃ u, rxSubstep s = .next u ∧ u.edge_en = true)
    (hno : s.without isInit 1) : ∃ t, cycles 1 s = .next t ∧ RxFrameAt s 0 1 t.rxView := by
  obtain ⟨a, ha, hen⟩ := hlisten
  have hidle : a.rx_state = .idle := (rxSubstep_keeps_inv hs ha).r28.listening.mp hen
  have hfalla : a.fall = true := (fall_congr (rxSubstep_inputs ha) (rxSubstep_rx_prev ha)).trans hfall
  obtain ⟨-, -, -, hb⟩ | ⟨hn, -⟩ := edgeSubstep_cases a
  · obtain ⟨t, ht, hview⟩ := step_completes_after_edge hs.legal hno ha hb
    refine ⟨t, (cycles_one s).trans ht, ?_⟩
    rw [hview]
    refine ⟨rfl, ?_, nofun, nofun⟩
    change 1 + a.par.RX_OFF = _
    rw [rxSubstep_par ha]
    omega
  · exact absurd ⟨hfalla, hen, hidle⟩ hn

/-- Until the Stop tick a cycle moves the frame one cycle on: after the RX sub-step the receiver is still in the frame, so no edge
is taken. -/
theorem RxFrameAt.step_next {s t : State} {j k : Nat} (h : RxFrameAt s j k t.rxView) (hs : s.Inv) (hrun : cycles k s = .next t)
    (hno : s.without isInit (s.par.RX_OFF + 9 * s.par.P)) (hk : k < s.par.RX_OFF + 9 * s.par.P) :
    ∃ i u, cycles (k + 1) s = .next u ∧ RxFrameAt s i (k + 1) u.rxView := by
  have ht : t.Inv := cycles_keeps_inv hs hrun
  have hline : t.rx_i = (s.inputAt k).rx_i := congrArg Input.rx_i (cycles_input hrun)
  obtain ⟨i, a, ha, hframe⟩ := h.rxSubstep_next ht (cycles_par hrun) hline hk
  have hb := edgeSubstep_not_listening (hframe.not_listening (rxSubstep_keeps_inv ht ha).rx)
  obtain ⟨u, hu, hview⟩ := step_completes_after_edge ht.legal (hno.after hk hrun) ha hb
  refine ⟨i, u, (cycles_snoc hrun).trans hu, ?_⟩
  rw [hview]
  exact ⟨hframe.state, hframe.due, hframe.idx, hframe.bits⟩

/-- From the cycle in which an edge is taken the receiver is in that frame up to the Stop tick. -/
theorem rxFrameAt_run {s : State} (hs : s.Inv) (hfall : s.fall = true) (hlisten : ∃ u, rxSubstep s = .next u ∧ u.edge_en = true)
    (hno : s.without isInit (s.par.RX_OFF + 9 * s.par.P)) {k : Nat} (h1 : 1 ≤ k) :
    k ≤ s.par.RX_OFF + 9 * s.par.P → ∃ j t, cycles k s = .next t ∧ RxFrameAt s j k t.rxView := by
  induction k, h1 using Nat.le_induction with
  | base => exact fun hk => ⟨0, rxFrameAt_first hs hfall hlisten fun m hm => hno m (by omega)⟩
  | succ k _ ih =>
    intro hk
    obtain ⟨j, t, hrun, hframe⟩ := ih (Nat.le_of_succ_le hk)
    exact hframe.step_next hs hrun hno hk

/-! ## The obligation -/

/-- Settles O50: at each cycle `rxFrameAt_run` gives the ticks fired, and the clauses are read off `RxFrameAt` before and after that
cycle's RX sub-step. -/
theorem receivedFrameSchedule : Obligations.ReceivedFrameSchedule := by
  intro s hs hfall hlisten hno k h1 hk
  obtain ⟨j, t, hrun, h⟩ := rxFrameAt_run hs hfall hlisten hno h1 hk
  have ht : t.Inv := cycles_keeps_inv hs hrun
  have hpar : t.par = s.par := cycles_par hrun
  obtain ⟨u, hu, hnext, hstop⟩ := h.rxSubstep_next_or_stop ht hpar (congrArg Input.rx_i (cycles_input hrun)) hk
  have hrxb := h.rxSubstep_rxb ht hpar hu
  have huv : u.rxView.Inv := (rxSubstep_keeps_inv ht hu).rx
  have hupar : u.par = s.par := (rxSubstep_par hu).trans hpar
  have hP : 0 < s.par.P := Nat.zero_lt_of_lt (s.par.legal_iff.mp hs.legal).1
  refine ⟨t, u, hrun, h.not_listening ht.rx, h.busy ht.rx, hu, h.in_start ht.rx hpar, h.in_bit ht.rx hpar, h.in_stop ht.rx hpar,
    fun i _ hi => h.sampled ht.rx hpar hi, fun hpush => ?_, fun hne => ?_, hstop⟩
  · obtain ⟨_, hframe⟩ := hnext (by omega)
    rw [if_pos hpush] at hrxb
    refine ⟨hframe.in_stop huv hupar (by omega), hrxb.symm, fun i hi => hframe.sampled huv hupar ?_⟩
    have hmul : (i + 1) * s.par.P ≤ 8 * s.par.P := Nat.mul_le_mul_right _ hi
    omega
  · rwa [if_neg hne] at hrxb

end Sys2Proof.Machine

/-! PROOFS of the family 'other', 30_encoding.md: no two rows of R61's table share an `op`, so a word matches one row at most
(O7), and in both formats encoding is the inverse of decoding (O8); with the sanity words (O6) and what the port carries (O10).
-/

namespace Sys2Proof

/-! ## The rows of R61 (R63) -/

/-- No two rows have the same `op`. -/
theorem cmdTable_op_nodup : (cmdTable.map fun r => opField r.pat).Nodup := by decide

/-- Every row fixes the bits of `op`, so a word that matches a row has the row's `op`. -/
theorem opField_of_matches {w : CmdWord} {r : CmdRow} (hr : r ∈ cmdTable) (hm : w &&& r.mask = r.pat) :
    opField w = opField r.pat := by
  have hmask : ∀ r ∈ cmdTable, opField r.mask = 0xF#4 := by decide
  have hand : opField (w &&& r.mask) = opField w &&& opField r.mask := BitVec.extractLsb'_and
  rw [← hm, hand, hmask r hr]
  exact BitVec.and_allOnes.symm

/-- A word decodes to what a row it matches makes of its `data`: the row found can be no other. -/
theorem decodeCmd_of_row {w : CmdWord} {r : CmdRow} (hr : r ∈ cmdTable) (hm : w &&& r.mask = r.pat) :
    decodeCmd w = .ok (r.make (dataField w)) := by
  cases hd : decodeCmd w with
  | error e => exact absurd ⟨r, hr, hm⟩ ((decodeCmd_error_iff_no_row w).mp ⟨e, hd⟩)
  | ok i =>
    obtain ⟨q, hq, hmq, rfl⟩ := row_of_decodeCmd hd
    have hop : opField q.pat = opField r.pat := (opField_of_matches hq hmq).symm.trans (opField_of_matches hr hm)
    rw [List.inj_on_of_nodup_map cmdTable_op_nodup hq hr hop]

/-- Settles O7: a word that decodes matches a row, a word decodes to any row it matches, and a word that matched two rows would
have the `op` of both. -/
theorem oneRowMatches : Obligations.OneRowMatches := by
  refine ⟨fun w i => ⟨fun h => ?_, ?_⟩, ?_⟩
  · obtain ⟨r, hr, hm, hi⟩ := row_of_decodeCmd h
    exact ⟨r, hr, hm, hi.symm⟩
  · rintro ⟨r, hr, hm, rfl⟩
    exact decodeCmd_of_row hr hm
  · refine (List.pairwise_map.mp cmdTable_op_nodup).imp_of_mem fun ha hb hne w hw => ?_
    obtain ⟨hwa, hwb⟩ := hw
    exact hne ((opField_of_matches ha hwa).symm.trans (opField_of_matches hb hwb))

/-! ## Encoding (R60, R61, R66) -/

/-- The fields of a word put together from its fields. -/
theorem fields_cmdWord (op : BitVec 4) (d : Byte) :
    opField (cmdWord op d) = op ∧ rsvField (cmdWord op d) = 0x0#4 ∧ dataField (cmdWord op d) = d := by
  refine ⟨BitVec.extractLsb'_append_eq_left, ?_, ?_⟩
  · exact (BitVec.extractLsb'_append_eq_of_add_le (by decide)).trans BitVec.extractLsb'_append_eq_left
  · exact (BitVec.extractLsb'_append_eq_of_add_le (by decide)).trans BitVec.extractLsb'_append_eq_right

/-- Every instruction's code decodes to it; only PUT_BYTE's has an operand of more than two bits. -/
theorem decode_encode (i : Instr) : decode (encode i) = .ok i := by
  cases i with
  | putByte d =>
    obtain ⟨hop, hrsv, hdata⟩ := fields_cmdWord 0x5#4 d
    exact (decodeCmd_of_op_five hop hrsv).trans (congrArg (fun b => Except.ok (Instr.putByte b)) hdata)
  | rxEdge st => cases st <;> decide
  | _ => decide

/-- Every row but PUT_BYTE's fixes all 16 bits, and has the code of its instruction as the bits fixed (R61). -/
theorem cmdTable_rows {r : CmdRow} (hr : r ∈ cmdTable) :
    (r.mask = 0xFFFF#16 ∧ ∀ d, encode (r.make d) = .cmd16 r.pat) ∨
    (r.mask = 0xFF00#16 ∧ r.pat = 0x5000#16 ∧ ∀ d, r.make d = .putByte d) := by
  revert r
  simp [cmdTable, encode, cmdWord]

/-- A word that matches a row is the code of what the row makes of it. -/
theorem encode_of_row {w : CmdWord} {r : CmdRow} (hr : r ∈ cmdTable) (hm : w &&& r.mask = r.pat) :
    encode (r.make (dataField w)) = .cmd16 w := by
  obtain ⟨hmask, henc⟩ | ⟨hmask, hpat, hmake⟩ := cmdTable_rows hr
  · have hfull : w &&& 0xFFFF#16 = w := BitVec.and_allOnes
    rw [henc, ← hm, hmask, hfull]
  · rw [hmask, hpat] at hm
    obtain ⟨hop, hrsv⟩ := (putByteRow_matches_iff w).mp hm
    obtain ⟨hop', hrsv', hdata'⟩ := fields_cmdWord 0x5#4 (dataField w)
    rw [hmake]
    exact congrArg Code.cmd16 ((cmdWord_eq_iff_fields _ _).mpr ⟨hop'.trans hop.symm, hrsv'.trans hrsv.symm, hdata'⟩)

/-- A label that names an event is that event's code. -/
theorem encode_of_decodeEvt {l : Label} {i : Instr} (h : decodeEvt l = .ok i) : encode i = .evt8 l := by
  have hall : ∀ l : Label, (decodeEvt l).toOption.all fun i => encode i = .evt8 l := by decide
  simpa [h, Except.toOption] using hall l

/-- Settles O8: `decode_encode`, and a code that decodes matches a row, whose word or label it is. -/
theorem decodeAndEncodeAgree : Obligations.DecodeAndEncodeAgree := by
  refine ⟨decode_encode, fun c i h => ?_⟩
  cases c with
  | cmd16 w =>
    obtain ⟨r, hr, hm, rfl⟩ := row_of_decodeCmd h
    exact encode_of_row hr hm
  | evt8 l => exact encode_of_decodeEvt h

/-- Settles O6: eleven fixed words, each evaluated. -/
theorem tableWordsDecode : Obligations.TableWordsDecode := by
  unfold Obligations.TableWordsDecode
  decide

/-- Settles O10: every row of R61's table makes a command. -/
theorem portCarriesNoEvent : Obligations.PortCarriesNoEvent :=
  fun _ _ h => isCommand_of_decodeCmd h

end Sys2Proof

/-! PROOFS of the family 'other', the state: what every step keeps (O4, O40, O41), that every state has a step (O43), which
steps are refused (O3), and the reset cycle (O2). -/

namespace Sys2Proof.Machine

/-! ## What every step keeps -/

/-- Settles O4: no step changes the parameters. -/
theorem parametersNeverChange : Obligations.ParametersNeverChange :=
  fun _ _ _ h => cycles_par h

/-- Settles O40: both sides of a reset block are at rest; `State.reset` is the case of one parameter set. -/
theorem resetMeetsTheInvariant : Obligations.ResetMeetsTheInvariant :=
  ⟨fun _ hp => resetOf_inv hp [], resetOf_inv (p := Params.ofReset) (by decide) []⟩

/-- Settles O41: each sub-step keeps the invariant, and so does the reset cycle. -/
theorem stepKeepsTheInvariant : Obligations.StepKeepsTheInvariant :=
  fun _ _ hs h => step_keeps_inv hs h

/-- A TX generator that is off has its machine idle with nothing queued (R28(c)), and an idle machine
has the line high. -/
theorem line_high_of_tx_off {s : State} (hs : s.Inv) (hg : s.txg.act = false) :
    s.tx_o = true ∧ s.tx_state = .idle ∧ s.txb.count = 0 := by
  obtain ⟨hst, hc⟩ := hs.r28.tx_off hg
  exact ⟨hs.line_high (.inl hst), hst, hc⟩

/-- Settles O56: the state after the step meets the invariant, so `line_high_of_tx_off` holds of it; the Start tick takes one
byte. -/
theorem activeBitFallsWithTheLineHigh : Obligations.ActiveBitFallsWithTheLineHigh := by
  refine ⟨fun s t hs h _ hg => line_high_of_tx_off (step_keeps_inv hs h) hg, fun s t hs h hc => ?_⟩
  have hget := Ring.get_byte .tx s.par.EMPTY_VALUE (by omega : 0 < s.txb.count) hs.tx_ring.tail_lt
  cases (txTickStart_of_get hget).symm.trans h
  exact ⟨by simp [hc], rfl, rfl, rfl⟩

/-! ## Every state has a step (R181) -/

theorem rxSubstep_completes (s : State) : ∃ t, rxSubstep s = .next t := by
  obtain ⟨-, he⟩ | ⟨-, -, he⟩ | ⟨-, -, he⟩ := rxSubstep_cases s
  · exact ⟨_, he⟩
  · exact he ▸ exec_completes _ _
  · exact ⟨_, he⟩

theorem edgeSubstep_completes (s : State) : ∃ t, edgeSubstep s = .next t := by
  obtain ⟨-, -, -, he⟩ | ⟨-, he⟩ := edgeSubstep_cases s
  · exact ⟨_, he⟩
  · exact ⟨_, he⟩

/-- Sub-step 4 completes whatever word is presented, INIT among them. -/
theorem hostSubstep_always_completes (s : State) : ∃ t, hostSubstep s = .next t := by
  obtain ⟨-, he⟩ | ⟨-, i, -, he⟩ | ⟨-, -, he⟩ := hostSubstep_cases s
  · exact ⟨_, he⟩
  · exact he ▸ exec_completes _ _
  · exact ⟨_, he⟩

/-- A cycle without reset completes, by its four sub-steps. -/
theorem substeps_complete (s : State) : ∃ a b c d,
    rxSubstep s = .next a ∧ edgeSubstep a = .next b ∧ txSubstep b = .next c ∧ hostSubstep c = .next d := by
  obtain ⟨a, ha⟩ := rxSubstep_completes s
  obtain ⟨b, hb⟩ := edgeSubstep_completes a
  obtain ⟨c, hc, -⟩ := txSubstep_completes b
  obtain ⟨d, hd⟩ := hostSubstep_always_completes c
  exact ⟨a, b, c, d, ha, hb, hc, hd⟩

/-- With legal parameters every state has a step. -/
theorem step_completes {s : State} (hl : s.par.legal = true) : ∃ t, step s = .next t := by
  cases hr : s.input.rst with
  | true => exact ⟨_, step_of_reset hl hr⟩
  | false =>
    obtain ⟨a, b, c, d, ha, hb, hc, hd⟩ := substeps_complete s
    exact ⟨_, step_of_substeps hl hr ha hb hc hd⟩

/-- With legal parameters every run completes. -/
theorem cycles_complete {s : State} (hl : s.par.legal = true) (n : Nat) : ∃ t, cycles n s = .next t := by
  induction n with
  | zero => exact ⟨s, rfl⟩
  | succ n ih =>
    obtain ⟨u, hu⟩ := ih
    rw [cycles_snoc hu]
    exact step_completes ((cycles_par hu).symm ▸ hl)

/-- Settles O43: each sub-step completes. -/
theorem everyStateHasAStep : Obligations.EveryStateHasAStep :=
  fun _ hl => step_completes hl

/-! ## Refusal and reset (R7, R151, R180) -/

/-- A parameter set outside its ranges is refused. -/
theorem step_of_illegal {s : State} (hl : s.par.legal = false) : step s = .refused .badParameters := by
  simp [step, clockCycle, hl]

/-- Settles O3: `Params.legal` is R7's ranges; a legal parameter set has a step and any other is refused. -/
theorem badParametersAreRefused : Obligations.BadParametersAreRefused := by
  intro s r
  rw [← s.par.legal_iff]
  cases hl : s.par.legal with
  | true =>
    obtain ⟨t, ht⟩ := step_completes hl
    simp [ht]
  | false => simp [step_of_illegal hl, eq_comm]

/-- A reset cycle leaves the reset values of R33. -/
theorem resetCycle_atReset (s : State) : (resetCycle s).AtReset where
  rx_state := rfl
  rx_idx := rfl
  rx_shift := rfl
  edge_en := rfl
  rx_prev := rfl
  rxg := ⟨rfl, rfl⟩
  tx_state := rfl
  tx_idx := rfl
  tx_shift := rfl
  tx_o := rfl
  txg := ⟨rfl, rfl⟩
  rxb := ⟨rfl, rfl, rfl⟩
  txb := ⟨rfl, rfl, rfl⟩
  rsp_valid := rfl
  rsp_data := rfl
  rsp_flag := rfl
  rsp_ill := rfl

/-- Settles O2: a cycle with `rst = 1` is `resetCycle`, which reads none of the input levels. -/
theorem resetCycleOnlyResets : Obligations.ResetCycleOnlyResets := by
  refine ⟨fun s hl hr => ⟨_, step_of_reset hl hr, resetCycle_atReset s, rfl, rfl⟩, fun s x y xs hx hy => ?_⟩
  have hstep : ∀ z : Input, z.rst = true → step { s with inputs := z :: xs } =
      if s.par.legal then .next { s.resetBlock with inputs := xs } else .refused .badParameters := by
    intro z hz
    cases hl : s.par.legal with
    | true => exact step_of_reset hl hz
    | false => exact step_of_illegal hl
  exact (hstep x hx).trans (hstep y hy).symm

end Sys2Proof.Machine

/-! PROOFS of the family 'other', the cycle: a step is the five sub-steps in R150's order (O11), a step on a placed word is its
command (O12). -/

namespace Sys2Proof.Machine

/-! ## The five sub-steps (R150) -/

/-- A cycle without reset, under legal parameters, is its five sub-steps in order. -/
theorem step_eq {s : State} (hl : s.par.legal = true) (hr : s.input.rst = false) :
    step s = andThen (andThen (tickSide s) hostSubstep) fun t => .next t.endCycle := by
  simp [step, clockCycle, hl, hr, runCycle]

/-- The host sub-step of a word that decodes is its command. -/
theorem hostSubstep_command {s : State} {i : Instr} (hv : s.input.cmd_valid = true) (hi : decodeCmd s.input.cmd = .ok i) :
    hostSubstep s = exec i s := by
  simp [hostSubstep, hv, hi]

/-- Without a command the host sub-step does nothing. -/
theorem hostSubstep_idle {s : State} (hv : s.input.cmd_valid = false) : hostSubstep s = .next s := by
  simp [hostSubstep, hv]

/-- On a falling edge RX_EDGE runs before `rx_prev` is written (R104). -/
theorem edgeSubstep_fall {s : State} (hfall : s.fall = true) :
    edgeSubstep s = andThen (exec (.rxEdge s.rx_state) s) fun t => .next t.noteLevel := by
  simp [edgeSubstep, hfall]

/-- Without a falling edge only `rx_prev` is written. -/
theorem edgeSubstep_no_fall {s : State} (hfall : s.fall = false) : edgeSubstep s = .next s.noteLevel := by
  simp [edgeSubstep, hfall]

/-- Settles O11: sub-steps 1 to 3 are `tickSide`; `noteLevel` and `endCycle` are the writes the
statement spells out. -/
theorem stepRunsTheDecodedInstruction : Obligations.StepRunsTheDecodedInstruction :=
  ⟨fun _ hl hr => step_eq hl hr, fun _ _ hv hi => hostSubstep_command hv hi, fun _ hv => hostSubstep_idle hv,
    fun _ hfall => edgeSubstep_fall hfall, fun _ hfall => edgeSubstep_no_fall hfall⟩

/-! ## A placed word (log entry 12) -/

/-- Placing a 16-bit word presents it on the command port. -/
theorem withFetchWord_cmd (s : State) (w : CmdWord) : s.withFetchWord 16 w.toNat = s.presentCommand w := by
  have hcode : codeOfTableWord 16 w.toNat = .ok (.cmd16 w) := by
    simp [codeOfTableWord, w.isLt]
  simp [State.withFetchWord, State.placeWord, hcode]

/-- The tick side keeps the input levels. -/
theorem tickSide_inputs {s t : State} (h : tickSide s = .next t) : t.inputs = s.inputs := by
  simp only [tickSide, andThen_eq_next] at h
  obtain ⟨b, ⟨a, ha, hb⟩, hc⟩ := h
  exact (txSubstep_inputs hc).trans ((edgeSubstep_inputs hb).trans (rxSubstep_inputs ha))

/-- Settles O12: the placed word is presented, so after the tick side the host sub-step is its command. -/
theorem stepOnAPlacedWord : Obligations.StepOnAPlacedWord := by
  intro s t w i hl hi ht
  rw [withFetchWord_cmd] at ht ⊢
  have hin : t.input = (s.presentCommand w).input := input_congr (tickSide_inputs ht)
  have hhost : hostSubstep t = exec i t := hostSubstep_command (by rw [hin]; rfl) (by rw [hin]; exact hi)
  rw [step_eq (s := s.presentCommand w) hl rfl, ht, andThen_next, hhost]

end Sys2Proof.Machine

/-! PROOFS of the family 'other', who writes what: each machine state (O33) and each buffer (O35) has its own writers, the host
and the tick side keep apart (O38), responses are held (O37), queries are idempotent (O39), and what an edge (O25) and an access
outside storage (O18) do. Every instruction is a command, an edge or a tick of one machine (`instr_kinds`); on the two sides of
the block each kind has one frame lemma, and the writers of a register are read off those. -/

namespace Sys2Proof.Machine

/-! ## The kinds of instructions and what each keeps -/

/-- Every instruction is a command, an edge, or a tick of one of the two machines (R61, R66). -/
theorem instr_kinds (i : Instr) :
    i.isCommand = true ∨ (∃ st, i = .rxEdge st) ∨ (∃ st, i = rxTickOf st) ∨ ∃ st, i = txTickOf st := by
  cases i with
  | rxEdge st => exact .inr (.inl ⟨st, rfl⟩)
  | rxTickIdle => exact .inr (.inr (.inl ⟨.idle, rfl⟩))
  | rxTickStart => exact .inr (.inr (.inl ⟨.start, rfl⟩))
  | rxTickBit => exact .inr (.inr (.inl ⟨.bit, rfl⟩))
  | rxTickStop => exact .inr (.inr (.inl ⟨.stop, rfl⟩))
  | txTickIdle => exact .inr (.inr (.inr ⟨.idle, rfl⟩))
  | txTickStart => exact .inr (.inr (.inr ⟨.start, rfl⟩))
  | txTickBit => exact .inr (.inr (.inr ⟨.bit, rfl⟩))
  | txTickStop => exact .inr (.inr (.inr ⟨.stop, rfl⟩))
  | _ => exact .inl rfl

/-- An edge does not touch the transmit side. -/
theorem rxEdge_txView {st : Fsm} {s t : State} (h : exec (.rxEdge st) s = .next t) : t.txView = s.txView := by
  obtain ⟨-, -, -, -, he⟩ | ⟨-, he⟩ := execRxEdge_cases st s <;> cases he.symm.trans h <;> rfl

/-- An edge does not touch the receive buffer. -/
theorem rxEdge_rxb {st : Fsm} {s t : State} (h : exec (.rxEdge st) s = .next t) : t.rxb = s.rxb := by
  obtain ⟨-, -, -, -, he⟩ | ⟨-, he⟩ := execRxEdge_cases st s <;> cases he.symm.trans h <;> rfl

/-- Of the receive side a command other than INIT and GET_BYTE writes nothing. -/
theorem command_rxView_eq {i : Instr} {s t : State} (hi : i.isCommand = true) (hinit : i ≠ .init) (hget : i ≠ .getByte)
    (h : exec i s = .next t) : t.rxView = s.rxView := by
  cases i with
  | init => exact absurd rfl hinit
  | getByte => exact absurd rfl hget
  | putByte d => cases (putByte_eq d s).symm.trans h; rfl
  | nop | rxEmpty | txEmpty | rxFull | txFull | status => cases h; rfl
  | _ => cases hi

/-- Of the transmit side a command other than INIT and PUT_BYTE writes nothing. -/
theorem command_txView_eq {i : Instr} {s t : State} (hi : i.isCommand = true) (hinit : i ≠ .init) (hput : ∀ d, i ≠ .putByte d)
    (h : exec i s = .next t) : t.txView = s.txView := by
  cases i with
  | init => exact absurd rfl hinit
  | putByte d => exact absurd rfl (hput d)
  | getByte => obtain ⟨_, _, -, rfl⟩ := execGetByte_next h; rfl
  | nop | rxEmpty | txEmpty | rxFull | txFull | status => cases h; rfl
  | _ => cases hi

/-- Of the transmit side a command other than INIT writes the buffer and the generator at most. -/
theorem command_txView {i : Instr} {s t : State} (hi : i.isCommand = true) (hinit : i ≠ .init) (h : exec i s = .next t) :
    t.txView = { s.txView with txg := t.txg, txb := t.txb } := by
  by_cases hput : ∃ d, i = .putByte d
  · obtain ⟨d, rfl⟩ := hput
    cases (putByte_eq d s).symm.trans h
    rfl
  · have heq := command_txView_eq hi hinit (fun d hd => hput ⟨d, hd⟩) h
    have hg : t.txg = s.txg := congrArg TxView.txg heq
    have hb : t.txb = s.txb := congrArg TxView.txb heq
    rw [heq, hg, hb]
    rfl

/-! ## The writers of the machine states (R13, R20) -/

/-- Everything an instruction can do to `rx_state`. -/
theorem exec_rx_state_cases {i : Instr} {s t : State} (h : exec i s = .next t) :
    t.rx_state = s.rx_state ∨ i = .rxEdge .idle ∨ i = .rxTickStart ∨ i = .rxTickBit ∨ i = .rxTickStop ∨ i = .init := by
  obtain hi | ⟨st, rfl⟩ | ⟨st, rfl⟩ | ⟨st, rfl⟩ := instr_kinds i
  · by_cases hinit : i = .init
    · simp [hinit]
    · exact .inl (congrArg RxView.rx_state (command_rxView hi hinit h))
  · obtain ⟨rfl, -⟩ | ⟨-, he⟩ := execRxEdge_cases st s
    · simp
    · cases he.symm.trans h
      exact .inl rfl
  · cases st with
    | idle => cases h; exact .inl rfl
    | start | bit | stop => simp [rxTickOf]
  · exact .inl (congrArg RxView.rx_state (txTick_rxView h))

/-- Everything an instruction can do to `tx_state`. -/
theorem exec_tx_state_cases {i : Instr} {s t : State} (h : exec i s = .next t) :
    t.tx_state = s.tx_state ∨ i = .txTickIdle ∨ i = .txTickStart ∨ i = .txTickBit ∨ i = .txTickStop ∨ i = .init := by
  obtain hi | ⟨st, rfl⟩ | ⟨st, rfl⟩ | ⟨st, rfl⟩ := instr_kinds i
  · by_cases hinit : i = .init
    · simp [hinit]
    · exact .inl (congrArg TxView.tx_state (command_txView hi hinit h))
  · exact .inl (congrArg TxView.tx_state (rxEdge_txView h))
  · exact .inl (congrArg TxView.tx_state (rxTick_txView h))
  · cases st <;> simp [txTickOf]

/-- Settles O33: the codes are the definition's, and an instruction that changes a machine state is in one of the other cases of
`exec_rx_state_cases` and `exec_tx_state_cases`. -/
theorem machineStateWriters : Obligations.MachineStateWriters :=
  ⟨⟨rfl, rfl, rfl, rfl⟩, fun _ _ _ h =>
    ⟨fun hne => (exec_rx_state_cases h).resolve_left hne, fun hne => (exec_tx_state_cases h).resolve_left hne⟩⟩

/-! ## The writers of the buffers (R25) -/

/-- Everything an instruction can do to the RX buffer. -/
theorem exec_rxb_cases {i : Instr} {s t : State} (h : exec i s = .next t) :
    t.rxb = s.rxb ∨ i = .rxTickBit ∨ i = .getByte ∨ i = .init := by
  obtain hi | ⟨st, rfl⟩ | ⟨st, rfl⟩ | ⟨st, rfl⟩ := instr_kinds i
  · by_cases hinit : i = .init
    · simp [hinit]
    by_cases hget : i = .getByte
    · simp [hget]
    · exact .inl (congrArg RxView.rxb (command_rxView_eq hi hinit hget h))
  · exact .inl (rxEdge_rxb h)
  · cases st with
    | bit => simp [rxTickOf]
    | idle | start | stop => cases h; exact .inl rfl
  · exact .inl (congrArg RxView.rxb (txTick_rxView h))

/-- Everything an instruction can do to the TX buffer. -/
theorem exec_txb_cases {i : Instr} {s t : State} (h : exec i s = .next t) :
    t.txb = s.txb ∨ (∃ d, i = .putByte d) ∨ i = .txTickStart ∨ i = .init := by
  obtain hi | ⟨st, rfl⟩ | ⟨st, rfl⟩ | ⟨st, rfl⟩ := instr_kinds i
  · by_cases hinit : i = .init
    · simp [hinit]
    by_cases hput : ∃ d, i = .putByte d
    · exact .inr (.inl hput)
    · exact .inl (congrArg TxView.txb (command_txView_eq hi hinit (fun d hd => hput ⟨d, hd⟩) h))
  · exact .inl (congrArg TxView.txb (rxEdge_txView h))
  · exact .inl (congrArg TxView.txb (rxTick_txView h))
  · cases st with
    | start => simp [txTickOf]
    | idle | bit => cases h; exact .inl rfl
    | stop => obtain ⟨-, he⟩ | ⟨-, he⟩ := execTxTickStop_cases s <;> cases he.symm.trans h <;> exact .inl rfl

/-- A put does not move the tail or lower the count. -/
theorem Ring.put_keeps {b : Side} {cap : Nat} {v : Byte} {r q : Ring} (h : Ring.put b cap v r = q) :
    q.tail = r.tail ∧ r.count ≤ q.count := by
  obtain ⟨-, rfl⟩ | ⟨-, rfl⟩ := Ring.put_cases h
  · exact ⟨rfl, Nat.le_succ _⟩
  · exact ⟨rfl, Nat.le_refl _⟩

/-- A get does not move the head, store a byte or raise the count. -/
theorem Ring.get_keeps {b : Side} {cap : Nat} {e : Byte} {r q : Ring} {vo : Byte × Bool} (h : Ring.get b cap e r = (vo, q)) :
    q.head = r.head ∧ q.mem = r.mem ∧ q.count ≤ r.count := by
  obtain ⟨-, -, rfl⟩ | ⟨-, -, rfl⟩ := Ring.get_cases h
  · exact ⟨rfl, rfl, Nat.sub_le _ _⟩
  · exact ⟨rfl, rfl, Nat.le_refl _⟩

/-- The RX Bit tick is the producer of the RX buffer: it puts or leaves it alone. -/
theorem rxTickBit_produces {s t : State} (h : exec .rxTickBit s = .next t) :
    t.rxb.tail = s.rxb.tail ∧ s.rxb.count ≤ t.rxb.count := by
  obtain ⟨-, rfl⟩ | ⟨-, q, hq, rfl⟩ := execRxTickBit_next h
  · exact ⟨rfl, Nat.le_refl _⟩
  · exact Ring.put_keeps hq

/-- Settles O35: the writers are the other cases of `exec_rxb_cases` and `exec_txb_cases`; a producer does what `Ring.put` does
and a consumer what `Ring.get` does. -/
theorem oneProducerOneConsumer : Obligations.OneProducerOneConsumer := by
  refine fun i s t h => ⟨(exec_rxb_cases h).resolve_left, (exec_txb_cases h).resolve_left, ?_, ?_, ?_, ?_, ?_⟩
  · rintro rfl
    exact rxTickBit_produces h
  · rintro rfl
    obtain ⟨_, _, hq, rfl⟩ := execGetByte_next h
    exact Ring.get_keeps hq
  · rintro d rfl
    cases (putByte_eq d s).symm.trans h
    exact Ring.put_keeps rfl
  · rintro rfl
    obtain ⟨_, _, hq, rfl⟩ := execTxTickStart_next h
    exact Ring.get_keeps hq
  · rintro rfl
    cases h
    exact ⟨rfl, rfl⟩

/-! ## The response registers (R26) -/

/-- The response registers. -/
def State.response (s : State) : Bool × Byte × Bool × Bool := (s.rsp_valid, s.rsp_data, s.rsp_flag, s.rsp_ill)

theorem response_eq_iff (s t : State) : t.response = s.response ↔
    t.rsp_valid = s.rsp_valid ∧ t.rsp_data = s.rsp_data ∧ t.rsp_flag = s.rsp_flag ∧ t.rsp_ill = s.rsp_ill := by
  simp [State.response]

theorem setGen_response (b : Side) (g : Gen) (s : State) : (s.setGen b g).response = s.response := by cases b <;> rfl

/-- An event writes no response register. -/
theorem event_response {i : Instr} {s t : State} (hi : i.isCommand = false) (h : exec i s = .next t) :
    t.response = s.response := by
  cases i with
  | rxEdge st => obtain ⟨-, -, -, -, he⟩ | ⟨-, he⟩ := execRxEdge_cases st s <;> cases he.symm.trans h <;> rfl
  | rxTickBit => obtain ⟨-, rfl⟩ | ⟨-, _, -, rfl⟩ := execRxTickBit_next h <;> rfl
  | txTickStart => obtain ⟨_, _, -, rfl⟩ := execTxTickStart_next h; rfl
  | txTickStop => obtain ⟨-, he⟩ | ⟨-, he⟩ := execTxTickStop_cases s <;> cases he.symm.trans h <;> rfl
  | rxTickIdle | rxTickStart | rxTickStop | txTickIdle | txTickBit => cases h; rfl
  | _ => cases hi

theorem rxSubstep_response {s t : State} (h : rxSubstep s = .next t) : t.response = s.response := by
  obtain ⟨-, he⟩ | ⟨-, -, he⟩ | ⟨-, -, he⟩ := rxSubstep_cases s
  · cases he.symm.trans h; rfl
  · have hevent : (rxTickOf s.rx_state).isCommand = false := by cases s.rx_state <;> rfl
    exact (event_response hevent (he.symm.trans h)).trans (setGen_response .rx _ s)
  · cases he.symm.trans h; rfl

theorem edgeSubstep_response {s t : State} (h : edgeSubstep s = .next t) : t.response = s.response := by
  obtain ⟨-, -, -, he⟩ | ⟨-, he⟩ := edgeSubstep_cases s <;> cases he.symm.trans h <;> rfl

theorem txSubstep_response {s t : State} (h : txSubstep s = .next t) : t.response = s.response := by
  obtain ⟨-, he⟩ | ⟨-, -, he⟩ | ⟨-, -, he⟩ := txSubstep_cases s
  · cases he.symm.trans h; rfl
  · have hevent : (txTickOf s.tx_state).isCommand = false := by cases s.tx_state <;> rfl
    exact (event_response hevent (he.symm.trans h)).trans (setGen_response .tx _ s)
  · cases he.symm.trans h; rfl

/-- Settles O37: the tick side runs events only, and without a command the host sub-step does nothing. -/
theorem responsesAreHeld : Obligations.ResponsesAreHeld := by
  refine fun s t h hrst => ⟨step_rsp_valid h hrst, fun hv => ?_⟩
  obtain ⟨-, ⟨hreset, -⟩ | ⟨-, a, b, c, d, ha, hb, hc, hd, rfl⟩⟩ := step_next h
  · cases hreset.symm.trans hrst
  · have hin : c.input = s.input :=
      input_congr ((txSubstep_inputs hc).trans ((edgeSubstep_inputs hb).trans (rxSubstep_inputs ha)))
    cases (hostSubstep_idle (hin ▸ hv)).symm.trans hd
    have htick : c.response = s.response :=
      (txSubstep_response hc).trans ((edgeSubstep_response hb).trans (rxSubstep_response ha))
    exact ((response_eq_iff s c).mp htick).2

/-- Settles O38: the frame lemmas of a command on the two sides, and `event_response`. -/
theorem hostAndTickSideKeepApart : Obligations.HostAndTickSideKeepApart := by
  refine ⟨fun i s t hi hinit h => ?_, fun i s t hi h => ?_⟩
  · have hrx := command_rxView hi hinit h
    have htx := command_txView hi hinit h
    refine ⟨congrArg RxView.rx_state hrx, congrArg RxView.rx_idx hrx, congrArg RxView.rx_shift hrx, congrArg RxView.edge_en hrx,
      congrArg RxView.rx_prev hrx, congrArg RxView.rxg hrx, congrArg TxView.tx_state htx, congrArg TxView.tx_idx htx,
      congrArg TxView.tx_shift htx, congrArg TxView.tx_o htx, fun hget => ?_, fun hput => ?_⟩
    · exact congrArg RxView.rxb (command_rxView_eq hi hinit hget h)
    · have heq := command_txView_eq hi hinit hput h
      exact ⟨congrArg TxView.txb heq, congrArg TxView.txg heq⟩
  · exact (response_eq_iff s t).mp (event_response hi h)

/-- A query's answer does not depend on the response registers, so asking again changes nothing, and it writes nothing else. -/
theorem query_idempotent {i : Instr} {s t : State}
    (hi : i = .nop ∨ i = .rxEmpty ∨ i = .txEmpty ∨ i = .rxFull ∨ i = .txFull ∨ i = .status) (h : exec i s = .next t) :
    exec i t = .next t ∧ { t with rsp_data := s.rsp_data, rsp_flag := s.rsp_flag, rsp_ill := s.rsp_ill } = s := by
  obtain rfl | rfl | rfl | rfl | rfl | rfl := hi <;> (cases h; exact ⟨rfl, rfl⟩)

/-- Settles O39: `query_idempotent`, and a get from a buffer that holds a byte takes one. -/
theorem queriesAreIdempotent : Obligations.QueriesAreIdempotent := by
  refine ⟨fun i s t hi h => query_idempotent hi h, fun s t h hc => ?_⟩
  obtain ⟨vo, q, hq, rfl⟩ := execGetByte_next h
  obtain ⟨-, -, rfl⟩ | ⟨h0, -⟩ := Ring.get_cases hq
  · exact ⟨Nat.sub_add_cancel hc, rfl⟩
  · omega

/-! ## Edges, and accesses outside storage -/

/-- Settles O25: RX_EDGE is taken under its four conditions and has no effect otherwise. -/
theorem edgeStartsAFrameOnlyWhenListening : Obligations.EdgeStartsAFrameOnlyWhenListening := by
  refine ⟨fun s => by simp [State.fall, State.rx_i], fun s hfall hen hst => ?_, fun s st hno => ?_⟩
  · obtain ⟨-, -, -, -, he⟩ | ⟨hn, -⟩ := execRxEdge_cases .idle s
    · exact he
    · exact absurd ⟨rfl, hfall, hen, hst⟩ hn
  · obtain ⟨h1, h2, h3, h4, -⟩ | ⟨-, he⟩ := execRxEdge_cases st s
    · simp [h1, h2, h3, h4] at hno
    · exact he

/-- A put into a buffer with room whose head is no slot stores to the free slot, if that is one (log entry 7). -/
theorem Ring.put_stray {cap : Nat} {r : Ring} (b : Side) (v : Byte) (hc : r.count < cap) (hh : cap ≤ r.head) :
    Ring.put b cap v r = { mem := memWrite b cap r.head v r, head := (r.head + 1) % cap, tail := r.tail, count := r.count + 1,
                           stray := r.stray + 1 } := by
  simp [Ring.put, hc, nextSlot, nextStray_stray hh]

/-- A get from a buffer that holds a byte whose tail is no slot answers the free byte (log entry 7). -/
theorem Ring.get_stray {cap : Nat} {r : Ring} (b : Side) (e : Byte) (hc : 0 < r.count) (ht : cap ≤ r.tail) :
    Ring.get b cap e r = ((Config.strayByte b r.stray, true),
      { r with tail := (r.tail + 1) % cap, count := r.count - 1, stray := r.stray + 1 }) := by
  simp [Ring.get, hc, nextSlot, nextStray_stray ht, memRead_stray ht]

/-- A write to a slot that does not exist changes the free slot, if that is one, and no other. -/
theorem read_memWrite_stray {cap i : Nat} {r : Ring} (b : Side) (v : Byte) (hi : cap ≤ i) (hm : r.mem.wf = true) (j : Nat) :
    Memory.read (memWrite b cap i v r) j =
      if Config.straySlot b r.stray < cap ∧ j = Config.straySlot b r.stray then v else Memory.read r.mem j := by
  rw [memRead_memWrite hm, slotStored_stray hi]

/-- Settles O18: the two gets are `Ring.get_stray`, the two puts `Ring.put_stray`, and what they store is `read_memWrite_stray`.
-/
theorem accessOutsideStorageRuns : Obligations.AccessOutsideStorageRuns := by
  refine ⟨fun s hc ht => getByte_of_get (Ring.get_stray .rx _ hc ht),
    fun s hc ht => txTickStart_of_get (Ring.get_stray .tx _ hc ht),
    fun s d hc hh => ⟨_, ?_, fun hm => read_memWrite_stray .tx d hh hm⟩,
    fun s hi hc hh => ⟨s.sampleBit.rx_shift, _, fun j hj => ?_, ?_, fun hm => read_memWrite_stray .rx _ hh hm⟩⟩
  · rw [putByte_eq, Ring.put_stray .tx d hc hh]
  · simpa [hi, State.rx_i] using getLsbD_setBit s.rx_shift s.rx_idx s.rx_i j hj
  · have hwrap : s.rx_idx + 1#3 = 0#3 := by rw [hi]; rfl
    rw [rxTickBit_last hi, Ring.put_stray .rx _ hc hh]
    simp only [State.setRing, State.sampleBit, hwrap]

end Sys2Proof.Machine

/-! PROOFS of the family 'other', one cycle: what meets in it (O47, O48). It is the tick side, then the host sub-step; on the
transmit side the tick side is sub-step 3, and without INIT and reset the host writes of each side its end of the buffer, and
the generator it arms. -/

namespace Sys2Proof.Machine

/-! ## The words a run does without -/

/-- What never comes does not come among fewer words. -/
theorem State.without.mono {bad bad' : CmdWord → Bool} {n : Nat} {s : State} (h : s.without bad n)
    (hbad : ∀ w, bad w = false → bad' w = false) : s.without bad' n :=
  fun k hk => ⟨(h k hk).1, fun hv => hbad _ ((h k hk).2 hv)⟩

theorem State.without.rst {bad : CmdWord → Bool} {s : State} (h : s.without bad 1) : s.input.rst = false :=
  inputAt_zero s ▸ (h 0 Nat.one_pos).1

/-- A cycle does without the words of the commands it does without. -/
theorem State.without.word {bad : CmdWord → Bool} {s : State} (h : s.without bad 1) (hv : s.input.cmd_valid = true) :
    bad s.input.cmd = false := by
  obtain ⟨-, hw⟩ := h 0 Nat.one_pos
  rw [inputAt_zero] at hw
  exact hw hv

/-- What a cycle does without is a matter of its input levels. -/
theorem State.without.congr {bad : CmdWord → Bool} {n : Nat} {s t : State} (h : s.without bad n) (hin : t.inputs = s.inputs) :
    t.without bad n :=
  fun k hk => by rw [inputAt_congr hin]; exact h k hk

theorem isInit_of_isInitOrGet {w : CmdWord} (h : isInitOrGet w = false) : isInit w = false := by
  simp_all [isInitOrGet, isInit]

theorem isInit_of_isInitOrPut {w : CmdWord} (h : isInitOrPut w = false) : isInit w = false := by
  simp_all [isInitOrPut, isInit]

/-- A word that is not INIT's is no INIT. -/
theorem decodeCmd_ne_init {w : CmdWord} {i : Instr} (hw : isInit w = false) (h : decodeCmd w = .ok i) : i ≠ .init := by
  rintro rfl
  rw [word_of_decodeCmd_init h] at hw
  cases hw

/-- A word that is neither INIT's nor GET_BYTE's is no GET_BYTE. -/
theorem decodeCmd_ne_getByte {w : CmdWord} {i : Instr} (hw : isInitOrGet w = false) (h : decodeCmd w = .ok i) :
    i ≠ .getByte := by
  rintro rfl
  obtain ⟨-, henc⟩ := decodeAndEncodeAgree
  cases henc (.cmd16 w) _ h
  cases hw

/-- A word that is neither INIT's nor PUT_BYTE's is no PUT_BYTE. -/
theorem decodeCmd_ne_putByte {w : CmdWord} {i : Instr} (hw : isInitOrPut w = false) (h : decodeCmd w = .ok i) (d : Byte) :
    i ≠ .putByte d := by
  rintro rfl
  obtain ⟨-, henc⟩ := decodeAndEncodeAgree
  cases henc (.cmd16 w) _ h
  obtain ⟨hop, hrsv, -⟩ := fields_cmdWord 0x5#4 d
  simp [isInitOrPut, (putByteRow_matches_iff _).mpr ⟨hop, hrsv⟩] at hw

/-! ## The tick side, seen from each side of the block -/

/-- The tick side is its three sub-steps. -/
theorem tickSide_next {s c : State} :
    tickSide s = .next c ↔ ∃ a b, rxSubstep s = .next a ∧ edgeSubstep a = .next b ∧ txSubstep b = .next c := by
  simp only [tickSide, andThen_eq_next]
  constructor
  · rintro ⟨b, ⟨a, ha, hb⟩, hc⟩
    exact ⟨a, b, ha, hb, hc⟩
  · rintro ⟨a, b, ha, hb, hc⟩
    exact ⟨b, ⟨a, ha, hb⟩, hc⟩

theorem tickSide_keeps_inv {s t : State} (hs : s.Inv) (h : tickSide s = .next t) : t.Inv := by
  obtain ⟨a, b, ha, hb, hc⟩ := tickSide_next.mp h
  exact txSubstep_keeps_inv (edgeSubstep_keeps_inv (rxSubstep_keeps_inv hs ha) hb) hc

theorem tickSide_completes (s : State) : ∃ t, tickSide s = .next t := by
  obtain ⟨a, b, c, -, ha, hb, hc, -⟩ := substeps_complete s
  exact ⟨c, tickSide_next.mpr ⟨a, b, ha, hb, hc⟩⟩

theorem tickSide_par {s t : State} (h : tickSide s = .next t) : t.par = s.par := by
  obtain ⟨a, b, ha, hb, hc⟩ := tickSide_next.mp h
  exact (txSubstep_par hc).trans ((edgeSubstep_par hb).trans (rxSubstep_par ha))

/-- On the transmit side the tick side is sub-step 3. -/
theorem tickSide_of_tx {s c : State} (h : tickSide s = .next c) :
    ∃ b, b.txView = s.txView ∧ (s.Inv → b.Inv) ∧ txSubstep b = .next c := by
  obtain ⟨a, b, ha, hb, hc⟩ := tickSide_next.mp h
  exact ⟨b, (edgeSubstep_txView hb).trans (rxSubstep_txView ha),
    fun hs => edgeSubstep_keeps_inv (rxSubstep_keeps_inv hs ha) hb, hc⟩

/-- A cycle without reset is the tick side, the host sub-step and the end of the cycle. -/
theorem step_next_of_run {s t : State} (h : step s = .next t) (hrst : s.input.rst = false) :
    ∃ c d, tickSide s = .next c ∧ hostSubstep c = .next d ∧ t = d.endCycle := by
  obtain ⟨-, ⟨hreset, -⟩ | ⟨-, a, b, c, d, ha, hb, hc, hd, rfl⟩⟩ := step_next h
  · cases hreset.symm.trans hrst
  · exact ⟨c, d, tickSide_next.mpr ⟨a, b, ha, hb, hc⟩, hd, rfl⟩

/-! ## The host sub-step without INIT -/

/-- What a command sub-step without INIT can do to the transmit side: a PUT_BYTE, or nothing. -/
theorem hostSubstep_tx_cases {s t : State} (hno : s.without isInit 1) (h : hostSubstep s = .next t) :
    t.txView = s.txView ∨ ∃ d, s.input.cmd_valid = true ∧ decodeCmd s.input.cmd = .ok (.putByte d) ∧
      t.txView = { s.txView with
        txb := Ring.put .tx s.par.TX_CAP d s.txb
        txg := if s.txg.act then s.txg else { act := true, cnt := s.par.TX_OFF } } := by
  obtain ⟨-, he⟩ | ⟨hv, i, hi, he⟩ | ⟨-, -, he⟩ := hostSubstep_cases s
  · cases he.symm.trans h; exact .inl rfl
  · by_cases hput : ∃ d, i = .putByte d
    · obtain ⟨d, rfl⟩ := hput
      cases (he.trans (putByte_eq d s)).symm.trans h
      exact .inr ⟨d, hv, hi, rfl⟩
    · exact .inl (command_txView_eq (isCommand_of_decodeCmd hi) (decodeCmd_ne_init (hno.word hv) hi)
        (fun d hd => hput ⟨d, hd⟩) (he.symm.trans h))
  · cases he.symm.trans h; exact .inl rfl

/-- Without INIT and GET_BYTE the host sub-step keeps the receive side. -/
theorem hostSubstep_rxView {s t : State} (hno : s.without isInitOrGet 1) (h : hostSubstep s = .next t) : t.rxView = s.rxView := by
  obtain ⟨-, he⟩ | ⟨hv, i, hi, he⟩ | ⟨-, -, he⟩ := hostSubstep_cases s
  · cases he.symm.trans h; rfl
  · have hw := hno.word hv
    exact command_rxView_eq (isCommand_of_decodeCmd hi) (decodeCmd_ne_init (isInit_of_isInitOrGet hw) hi)
      (decodeCmd_ne_getByte hw hi) (he.symm.trans h)
  · cases he.symm.trans h; rfl

/-! ## Two events in one cycle (R154, R155) -/

/-- On the receive side the transmit sub-step does nothing. -/
theorem txSubstep_rxView {s t : State} (h : txSubstep s = .next t) : t.rxView = s.rxView := by
  obtain ⟨u, hu, hv⟩ := txSubstep_completes s
  cases hu.symm.trans h
  exact hv

/-- A receiver in a frame: its tick side is sub-step 1, as no edge is taken after it while it does not listen. -/
theorem tickSide_of_rx {s a c : State} (ha : rxSubstep s = .next a) (hen : a.edge_en = false) (h : tickSide s = .next c) :
    c.rxView = a.noteLevel.rxView := by
  obtain ⟨a', b, ha', hb, hc⟩ := tickSide_next.mp h
  cases ha.symm.trans ha'
  cases (edgeSubstep_not_listening hen).symm.trans hb
  exact txSubstep_rxView hc

/-- A machine that is not idle has its generator counting (R28(c)). -/
theorem State.Inv.tx_active {s : State} (hs : s.Inv) (hst : s.tx_state ≠ .idle) : s.txg.act = true := by
  by_contra hg
  exact hst (hs.r28.tx_off (by simpa using hg)).1

theorem Ring.contents_of_empty {cap : Nat} {r : Ring} (hc : r.count = 0) : r.contents cap = [] :=
  List.length_eq_zero_iff.mp ((Ring.contents_length cap r).trans hc)

/-- A get takes the first of the bytes held. -/
theorem Ring.get_of_contents {cap : Nat} {r : Ring} {v : Byte} {vs : List Byte} (b : Side) (e : Byte) (ht : r.tail < cap)
    (h : r.contents cap = v :: vs) : ∃ q, Ring.get b cap e r = ((v, true), q) ∧ q.contents cap = vs := by
  have hc : 0 < r.count := by rw [← Ring.contents_length cap r, h]; exact Nat.succ_pos _
  rw [Ring.contents_eq_cons hc ht] at h
  obtain ⟨hv, hvs⟩ := List.cons.inj h
  exact ⟨_, hv ▸ Ring.get_byte b e hc ht, hvs⟩

/-- GET_BYTE answers the first of the bytes held and leaves the others. -/
theorem getByte_of_contents {s : State} {v : Byte} {vs : List Byte} (ht : s.rxb.tail < s.par.RX_CAP)
    (h : s.rxb.contents s.par.RX_CAP = v :: vs) :
    ∃ q, exec .getByte s = .next ((s.setRing .rx q).respond v true) ∧ q.contents s.par.RX_CAP = vs := by
  obtain ⟨q, hq, hvs⟩ := Ring.get_of_contents .rx s.par.EMPTY_VALUE ht h
  exact ⟨q, getByte_of_get hq, hvs⟩

/-- The eighth Bit tick of a frame, on the RX side (R113). -/
theorem rxSubstep_last_bit {s : State} (hs : s.Inv) (hst : s.rx_state = .bit) (hi : s.rx_idx = 7#3) (h1 : s.rxg.cnt = 1) :
    ∃ a, rxSubstep s = .next a ∧ a.rx_state = .stop ∧ a.rx_shift = setBit s.rx_shift 7#3 s.rx_i ∧
      a.rxb = Ring.put .rx s.par.RX_CAP a.rx_shift s.rxb := by
  have hg : s.rxg.act = true := hs.r28.rx_busy.mpr (by simp [hst])
  have hfire := rxSubstep_fire hg h1
  rw [hst] at hfire
  exact ⟨_, hfire.trans (rxTickBit_last hi), rfl, by simp [hi], rfl⟩

/-- A GET_BYTE in the cycle of the eighth Bit tick into an empty buffer answers the byte just completed. -/
theorem getByte_at_last_bit {s : State} (hs : s.Inv) (hw : s.issues 0x2000#16) (hst : s.rx_state = .bit) (hi : s.rx_idx = 7#3)
    (h1 : s.rxg.cnt = 1) (hc : s.rxb.count = 0) :
    ∃ t, step s = .next t ∧ t.rsp_flag = true ∧ t.rsp_data = t.rx_shift ∧ t.rx_shift = setBit s.rx_shift 7#3 s.rx_i ∧
      t.rxb.count = 0 ∧ t.rx_state = .stop := by
  obtain ⟨t, ht⟩ := step_completes hs.legal
  obtain ⟨c, u, hc', hu, rfl⟩ := step_of_issues (by decide : decodeCmd 0x2000#16 = .ok .getByte) hw ht
  obtain ⟨a, ha, hstop, hshift, hput⟩ := rxSubstep_last_bit hs hst hi h1
  have hainv := rxSubstep_keeps_inv hs ha
  have hview := tickSide_of_rx ha (hainv.rx.not_listening (v := a.rxView) (by simp [State.rxView, hstop])) hc'
  have hpar : c.par = s.par := (show c.par = a.par from congrArg RxView.par hview).trans (rxSubstep_par ha)
  have hcshift : c.rx_shift = a.rx_shift := congrArg RxView.rx_shift hview
  have hbytes : c.rxb.contents c.par.RX_CAP = [a.rx_shift] := by
    have hrxb : c.rxb = a.rxb := congrArg RxView.rxb hview
    obtain ⟨-, -, -, -, -, hcap, -⟩ := s.par.legal_iff.mp hs.legal
    rw [hpar, hrxb, hput, Ring.contents_put_room .rx _ hs.rx_ring hs.rx_mem (by omega), Ring.contents_of_empty hc]
    rfl
  obtain ⟨q, hq, hnone⟩ := getByte_of_contents (tickSide_keeps_inv hs hc').rx_ring.tail_lt hbytes
  cases hq.symm.trans hu
  have hcount : q.count = 0 := by simpa using congrArg List.length hnone
  exact ⟨_, ht, rfl, hcshift.symm, hcshift.trans hshift, hcount, (congrArg RxView.rx_state hview).trans hstop⟩

/-- In the cycle of the Stop tick the tick side runs it, on the transmit side. -/
theorem tickSide_stop_tick {s c : State} (hs : s.Inv) (hst : s.tx_state = .stop) (h1 : s.txg.cnt = 1) (h : tickSide s = .next c) :
    ∃ b, b.txView = { s.txView with txg := { act := true, cnt := s.par.P } } ∧ exec .txTickStop b = .next c := by
  obtain ⟨b, hview, -, hb⟩ := tickSide_of_tx h
  have hbst : b.tx_state = .stop := (congrArg TxView.tx_state hview).trans hst
  have hbg : b.txg = s.txg := congrArg TxView.txg hview
  have hfire := txSubstep_fire (hbg ▸ hs.tx_active (by simp [hst])) (hbg ▸ h1)
  rw [hbst] at hfire
  exact ⟨_, congrArg (fun v : TxView => { v with txg := { act := true, cnt := v.par.P } }) hview, hfire.symm.trans hb⟩

/-- The Stop tick with nothing queued disarms with the line high (R124). -/
theorem tickSide_disarms {s c : State} (hs : s.Inv) (hst : s.tx_state = .stop) (h1 : s.txg.cnt = 1) (hc : s.txb.count = 0)
    (h : tickSide s = .next c) : c.txView = { s.txView with txg := Gen.off, tx_o := true, tx_state := .idle } := by
  obtain ⟨b, hview, hb⟩ := tickSide_stop_tick hs hst h1 h
  have hbc : b.txb.count = 0 := (congrArg (fun v => v.txb.count) hview).trans hc
  cases (txTickStop_empty hbc).symm.trans hb
  exact congrArg (fun v : TxView => { v with txg := Gen.off, tx_o := true, tx_state := .idle }) hview

/-- The Stop tick with a byte queued goes on to the next start bit, a bit period later (R124). -/
theorem tickSide_restarts {s c : State} (hs : s.Inv) (hst : s.tx_state = .stop) (h1 : s.txg.cnt = 1) (hc : s.txb.count ≠ 0)
    (h : tickSide s = .next c) :
    c.txView = { s.txView with txg := { act := true, cnt := s.par.P }, tx_o := true, tx_state := .start } := by
  obtain ⟨b, hview, hb⟩ := tickSide_stop_tick hs hst h1 h
  have hbc : b.txb.count ≠ 0 := (congrArg (fun v => v.txb.count) hview).trans_ne hc
  cases (txTickStop_queued hbc).symm.trans hb
  exact congrArg (fun v : TxView => { v with tx_o := true, tx_state := .start }) hview

/-- A PUT_BYTE in the cycle of a disarming Stop tick arms the generator again for its byte. -/
theorem putByte_at_disarm {s : State} {d : Byte} (hs : s.Inv) (hw : s.issues (0x50#8 ++ d)) (hst : s.tx_state = .stop)
    (h1 : s.txg.cnt = 1) (hc : s.txb.count = 0) :
    ∃ t, step s = .next t ∧ t.tx_o = true ∧ t.tx_state = .idle ∧ t.txg = { act := true, cnt := s.par.TX_OFF } ∧
      t.txb.contents s.par.TX_CAP = [d] := by
  obtain ⟨t, ht⟩ := step_completes hs.legal
  obtain ⟨c, u, hc', hu, rfl⟩ := step_of_issues (decodeCmd_putByte d) hw ht
  have hview := tickSide_disarms hs hst h1 hc hc'
  have hpar : c.par = s.par := congrArg TxView.par hview
  have hoff : c.txg.act = false := congrArg (fun v => v.txg.act) hview
  have hrxb : c.txb = s.txb := congrArg TxView.txb hview
  obtain ⟨-, -, -, -, -, -, hcap⟩ := s.par.legal_iff.mp hs.legal
  cases (putByte_eq d c).symm.trans hu
  refine ⟨_, ht, congrArg TxView.tx_o hview, congrArg TxView.tx_state hview, by simp [hoff, hpar], ?_⟩
  simp only [endCycle_txb, hpar, hrxb, Ring.contents_put_room .tx d hs.tx_ring hs.tx_mem (by omega), Ring.contents_of_empty hc,
    List.nil_append]

/-- Settles O47: both are cycles in which the tick side comes first and the command acts on what it left. -/
theorem sameCycleOrder : Obligations.SameCycleOrder := by
  refine ⟨fun s hs hw hst hi h1 hc => ?_, fun s d hs hw hst h1 hc => putByte_at_disarm hs hw hst h1 hc⟩
  obtain ⟨t, ht, hflag, hdata, hshift, hcount, hstop⟩ := getByte_at_last_bit hs hw hst hi h1 hc
  refine ⟨t, ht, hflag, hdata, ?_, hcount, hstop⟩
  rw [hdata, hshift, getLsbD_setBit _ _ _ 7 (by decide)]
  rfl

/-- Settles O48: after the Stop tick of its own cycle the receiver listens, so the edge begins a frame (`rxFrameAt_first`). -/
theorem edgeAtTheStopTickIsTaken : Obligations.EdgeAtTheStopTickIsTaken := by
  intro s hs hst h1 hfall hno
  have ha := rxSubstep_fire (hs.r28.rx_busy.mpr (by simp [hst])) h1
  rw [hst] at ha
  obtain ⟨t, ht, hframe⟩ := rxFrameAt_first hs hfall ⟨_, ha, rfl⟩ hno
  have hrx := (cycles_keeps_inv hs ht).rx
  have hact : t.rxg.act = true := hframe.busy hrx
  have hcnt : 1 + t.rxg.cnt = s.par.RX_OFF + 0 * s.par.P + 1 := hframe.due
  refine ⟨t, cycles_one s ▸ ht, hframe.state, hframe.not_listening hrx, ?_⟩
  rw [← hact, show s.par.RX_OFF = t.rxg.cnt by omega]

end Sys2Proof.Machine

/-! PROOFS of the family 'other', through any number of cycles: a generator counts down to its tick (O49), a line that stays low
starts no frame (O53), and a byte and a slot wait for the host (O54, O55). Each is one cycle's lemma and the induction
`cycles_invariant`. -/

namespace Sys2Proof.Machine

/-! ## Induction on the cycles -/

/-- What `A` of a cycle's input levels lets that cycle carry from `Q k` to `Q (k + 1)` holds after every number of cycles. -/
theorem cycles_invariant {A : Input → Prop} {Q : Nat → State → Prop} {n : Nat} {s : State}
    (hstep : ∀ k t u, k < n → t.Inv → A t.input → Q k t → step t = .next u → Q (k + 1) u) (hs : s.Inv)
    (hin : ∀ k, k < n → A (s.inputAt k)) (hq : Q 0 s) {k : Nat} (hk : k ≤ n) :
    ∃ t, cycles k s = .next t ∧ t.Inv ∧ Q k t := by
  induction k with
  | zero => exact ⟨s, rfl, hs, hq⟩
  | succ k ih =>
    obtain ⟨t, hrun, ht, hqt⟩ := ih (Nat.le_of_succ_le hk)
    obtain ⟨u, hu⟩ := step_completes ht.legal
    exact ⟨u, (cycles_snoc hrun).trans hu, step_keeps_inv ht hu, hstep k t u hk ht (cycles_input hrun ▸ hin k hk) hqt hu⟩

/-- The same where each cycle is without reset and the words `bad`. -/
theorem cycles_without {bad : CmdWord → Bool} {Q : Nat → State → Prop} {n : Nat} {s : State}
    (hstep : ∀ k t u, k < n → t.Inv → t.without bad 1 → Q k t → step t = .next u → Q (k + 1) u) (hs : s.Inv)
    (hno : s.without bad n) (hq : Q 0 s) {k : Nat} (hk : k ≤ n) : ∃ t, cycles k s = .next t ∧ t.Inv ∧ Q k t := by
  refine cycles_invariant (A := fun x => x.rst = false ∧ (x.cmd_valid = true → bad x.cmd = false))
    (fun k t u hk ht hA hqt hu => hstep k t u hk ht (fun m hm => ?_) hqt hu) hs hno hq hk
  obtain rfl : m = 0 := Nat.lt_one_iff.mp hm
  rwa [inputAt_zero]

/-! ## The count (R91, R96) -/

/-- A cycle of an RX generator that does not fire counts down; of the rest of the receive side it writes `rx_prev` and, for the
host, the buffer. -/
theorem step_rx_count {s t : State} (hs : s.Inv) (hg : s.rxg.act = true) (h2 : 2 ≤ s.rxg.cnt) (hno : s.without isInit 1)
    (h : step s = .next t) :
    t.rxView = { s.rxView with rxg := { act := true, cnt := s.rxg.cnt - 1 }, rx_prev := t.rx_prev, rxb := t.rxb } := by
  have hP := (hs.r28.rx_cnt hg).2
  have hen : s.edge_en = false := hs.rx.not_listening (hs.r28.rx_busy.mp hg)
  have ha := rxSubstep_down hg h2 (hP.trans_lt s.par.P_lt_two_pow_CW)
  obtain ⟨u, hu, hview⟩ := step_completes_after_edge hs.legal hno ha (edgeSubstep_not_listening hen)
  cases hu.symm.trans h
  rw [show t.rx_prev = s.rx_i from congrArg RxView.rx_prev hview]
  exact hview

/-- While the TX generator counts, the host sub-step without INIT writes of the transmit side the buffer at most. -/
theorem hostSubstep_txView_busy {s t : State} (hg : s.txg.act = true) (hno : s.without isInit 1) (h : hostSubstep s = .next t) :
    t.txView = { s.txView with txb := t.txb } := by
  obtain hview | ⟨d, -, -, hview⟩ := hostSubstep_tx_cases hno h
  · rw [show t.txb = s.txb from congrArg TxView.txb hview, hview]
    rfl
  · rw [show t.txb = Ring.put .tx s.par.TX_CAP d s.txb from congrArg TxView.txb hview, hview, if_pos hg]
    rfl

/-- A cycle of a TX generator that does not fire counts down; of the rest of the transmit side it writes, for the host, the
buffer. -/
theorem step_tx_count {s t : State} (hs : s.Inv) (hg : s.txg.act = true) (h2 : 2 ≤ s.txg.cnt) (hno : s.without isInit 1)
    (h : step s = .next t) : t.txView = { s.txView with txg := { act := true, cnt := s.txg.cnt - 1 }, txb := t.txb } := by
  obtain ⟨c, d, hc, hd, rfl⟩ := step_next_of_run h hno.rst
  obtain ⟨b, hview, -, hb⟩ := tickSide_of_tx hc
  have hpar : b.par = s.par := congrArg TxView.par hview
  have hgen : b.txg = s.txg := congrArg TxView.txg hview
  have hP : s.txg.cnt < 2 ^ s.par.CW := (hs.r28.tx_cnt hg).2.trans_lt s.par.P_lt_two_pow_CW
  cases (txSubstep_down (hgen ▸ hg) (hgen ▸ h2) (hgen ▸ hpar ▸ hP)).symm.trans hb
  have hdv := hostSubstep_txView_busy rfl (hno.congr (tickSide_inputs hc)) hd
  exact hdv.trans
    (congrArg (fun v : TxView => { v with txg := { act := true, cnt := v.txg.cnt - 1 }, txb := d.txb }) hview)

/-- The receive side of `t` is that of `s` with its generator at count `c`, but for what the line and the host write. -/
def State.RxCounting (s : State) (c : Nat) (t : State) : Prop :=
  t.rxView = { s.rxView with rxg := { act := true, cnt := c }, rx_prev := t.rx_prev, rxb := t.rxb }

/-- The transmit side of `t` is that of `s` with its generator at count `c`, but for what the host writes. -/
def State.TxCounting (s : State) (c : Nat) (t : State) : Prop :=
  t.txView = { s.txView with txg := { act := true, cnt := c }, txb := t.txb }

theorem State.RxCounting.step {s t u : State} {c : Nat} (h : s.RxCounting c t) (ht : t.Inv) (hc : 2 ≤ c)
    (hno : t.without isInit 1) (hstep : step t = .next u) : s.RxCounting (c - 1) u := by
  have hgen : t.rxg = { act := true, cnt := c } := congrArg RxView.rxg h
  have hview := step_rx_count ht (congrArg Gen.act hgen) (by rwa [hgen]) hno hstep
  rw [h, hgen] at hview
  exact hview

theorem State.TxCounting.step {s t u : State} {c : Nat} (h : s.TxCounting c t) (ht : t.Inv) (hc : 2 ≤ c)
    (hno : t.without isInit 1) (hstep : step t = .next u) : s.TxCounting (c - 1) u := by
  have hgen : t.txg = { act := true, cnt := c } := congrArg TxView.txg h
  have hview := step_tx_count ht (congrArg Gen.act hgen) (by rwa [hgen]) hno hstep
  rw [h, hgen] at hview
  exact hview

theorem rxCounting_run {n : Nat} {s : State} (hs : s.Inv) (hg : s.rxg.act = true) (hn : n < s.rxg.cnt)
    (hno : s.without isInit n) :
    ∃ t, cycles n s = .next t ∧ s.RxCounting (s.rxg.cnt - n) t := by
  obtain ⟨t, ht, -, hcount⟩ := cycles_without (Q := fun k t => s.RxCounting (s.rxg.cnt - k) t)
    (fun k t u hk ht hno hq h => Nat.sub_sub _ k 1 ▸ hq.step ht (by omega) hno h) hs hno
    (by simp [State.RxCounting, State.rxView, ← hg]) (Nat.le_refl n)
  exact ⟨t, ht, hcount⟩

theorem txCounting_run {n : Nat} {s : State} (hs : s.Inv) (hg : s.txg.act = true) (hn : n < s.txg.cnt)
    (hno : s.without isInit n) :
    ∃ t, cycles n s = .next t ∧ s.TxCounting (s.txg.cnt - n) t := by
  obtain ⟨t, ht, -, hcount⟩ := cycles_without (Q := fun k t => s.TxCounting (s.txg.cnt - k) t)
    (fun k t u hk ht hno hq h => Nat.sub_sub _ k 1 ▸ hq.step ht (by omega) hno h) hs hno
    (by simp [State.TxCounting, State.txView, ← hg]) (Nat.le_refl n)
  exact ⟨t, ht, hcount⟩

/-- Settles O49: on either side `n` cycles count down by `n`, each by one. -/
theorem timersCountDownToTheTick : Obligations.TimersCountDownToTheTick := by
  intro b n s hs hg hn hno
  cases b with
  | rx =>
    obtain ⟨t, ht, hview⟩ := rxCounting_run hs hg hn hno
    exact ⟨t, ht, congrArg RxView.rxg hview,
      fun _ => ⟨congrArg RxView.rx_state hview, congrArg RxView.rx_idx hview, congrArg RxView.rx_shift hview⟩, nofun⟩
  | tx =>
    obtain ⟨t, ht, hview⟩ := txCounting_run hs hg hn hno
    exact ⟨t, ht, congrArg TxView.txg hview, nofun,
      fun _ => ⟨congrArg TxView.tx_state hview, congrArg TxView.tx_idx hview, congrArg TxView.tx_shift hview,
        congrArg TxView.tx_o hview⟩⟩

/-! ## A line that stays low (R164) -/

/-- A command keeps an idle receiver idle and stores no byte for the host to get. -/
theorem command_rx_idle {i : Instr} {s t : State} (hi : i.isCommand = true) (hst : s.rx_state = .idle) (h : exec i s = .next t) :
    t.rx_state = .idle ∧ t.rxb.count ≤ s.rxb.count := by
  by_cases hinit : i = .init
  · subst hinit
    cases h
    exact ⟨rfl, Nat.zero_le _⟩
  refine ⟨(congrArg RxView.rx_state (command_rxView hi hinit h)).trans hst, ?_⟩
  by_cases hget : i = .getByte
  · subst hget
    obtain ⟨_, _, hq, rfl⟩ := execGetByte_next h
    exact (Ring.get_keeps hq).2.2
  · exact (congrArg (fun v => v.rxb.count) (command_rxView_eq hi hinit hget h)).le

theorem hostSubstep_rx_idle {s t : State} (hst : s.rx_state = .idle) (h : hostSubstep s = .next t) :
    t.rx_state = .idle ∧ t.rxb.count ≤ s.rxb.count := by
  obtain ⟨-, he⟩ | ⟨-, i, hi, he⟩ | ⟨-, -, he⟩ := hostSubstep_cases s
  · cases he.symm.trans h; exact ⟨hst, Nat.le_refl _⟩
  · exact command_rx_idle (isCommand_of_decodeCmd hi) hst (he.symm.trans h)
  · cases he.symm.trans h; exact ⟨hst, Nat.le_refl _⟩

/-- An idle receiver has its generator off (R28(b)). -/
theorem State.Inv.rx_off {s : State} (hs : s.Inv) (hst : s.rx_state = .idle) : s.rxg.act = false := by
  by_contra hg
  exact hs.r28.rx_busy.mp (by simpa using hg) hst

/-- An idle receiver that sees no falling edge: the tick side only notes the level. -/
theorem tickSide_rx_idle {s c : State} (hs : s.Inv) (hst : s.rx_state = .idle) (hfall : s.fall = false)
    (h : tickSide s = .next c) : c.rxView = s.noteLevel.rxView := by
  obtain ⟨a, b, ha, hb, hc⟩ := tickSide_next.mp h
  cases (rxSubstep_off (hs.rx_off hst)).symm.trans ha
  cases (edgeSubstep_no_fall hfall).symm.trans hb
  exact txSubstep_rxView hc

/-- An idle receiver that saw the line low and holds at most `m` bytes. -/
def State.IdleLow (m : Nat) (s : State) : Prop := s.rx_state = .idle ∧ s.rx_prev = false ∧ s.rxb.count ≤ m

/-- A cycle with the line low starts no frame where the line was low before. -/
theorem State.IdleLow.step {m : Nat} {s t : State} (hlow : s.IdleLow m) (hs : s.Inv) (hrst : s.input.rst = false)
    (hline : s.input.rx_i = false) (h : step s = .next t) : t.IdleLow m := by
  obtain ⟨hst, hprev, hm⟩ := hlow
  obtain ⟨c, d, hc, hd, rfl⟩ := step_next_of_run h hrst
  have hview := tickSide_rx_idle hs hst (by simp [State.fall, hprev]) hc
  obtain ⟨hidle, hcount⟩ := hostSubstep_rx_idle ((congrArg RxView.rx_state hview).trans hst) hd
  have hrxb : c.rxb = s.rxb := congrArg RxView.rxb hview
  exact ⟨hidle, by simpa [hrst, hline] using step_rx_prev h, hcount.trans (hrxb ▸ hm)⟩

/-- Settles O53: `State.IdleLow.step` through every cycle. -/
theorem stuckLowLineStartsNoFrame : Obligations.StuckLowLineStartsNoFrame := by
  intro n s hs hst hprev hin
  obtain ⟨t, ht, -, hlow⟩ := cycles_invariant (A := fun x => x.rst = false ∧ x.rx_i = false)
    (Q := fun _ => State.IdleLow s.rxb.count)
    (fun k t u _ ht hA hlow h => hlow.step ht hA.1 hA.2 h) hs hin ⟨hst, hprev, Nat.le_refl _⟩ (Nat.le_refl n)
  exact ⟨t, ht, hlow⟩

/-! ## What waits for the host (R184, R185) -/

/-- Sub-step 1 leaves the RX buffer alone or puts a byte into it. -/
theorem rxSubstep_rxb_cases {s t : State} (h : rxSubstep s = .next t) :
    t.rxb = s.rxb ∨ ∃ v, t.rxb = Ring.put .rx s.par.RX_CAP v s.rxb := by
  obtain ⟨-, he⟩ | ⟨-, -, he⟩ | ⟨-, -, he⟩ := rxSubstep_cases s
  · cases he.symm.trans h; exact .inl rfl
  · have htick := rxTick_rxb (s := s.setGen .rx { act := true, cnt := s.par.P }) (he.symm.trans h)
    by_cases hlast : s.rx_state = .bit ∧ s.rx_idx = 7#3
    · exact .inr ⟨_, htick.trans (if_pos hlast)⟩
    · exact .inl (htick.trans (if_neg hlast))
  · cases he.symm.trans h; exact .inl rfl

/-- Without INIT and GET_BYTE the RX buffer is, after a cycle, what sub-step 1 left. -/
theorem step_rxb {s a t : State} (hno : s.without isInitOrGet 1) (ha : rxSubstep s = .next a) (h : step s = .next t) :
    t.rxb = a.rxb := by
  obtain ⟨c, d, hc, hd, rfl⟩ := step_next_of_run h hno.rst
  have hhost : d.rxb = c.rxb := congrArg RxView.rxb (hostSubstep_rxView (hno.congr (tickSide_inputs hc)) hd)
  obtain ⟨a', b, ha', hb, hc'⟩ := tickSide_next.mp hc
  cases ha.symm.trans ha'
  have hedge : b.rxb = a.rxb := by
    obtain ⟨-, -, -, he⟩ | ⟨-, he⟩ := edgeSubstep_cases a <;> cases he.symm.trans hb <;> rfl
  exact hhost.trans ((congrArg RxView.rxb (txSubstep_rxView hc')).trans hedge)

/-- A put keeps the bytes held, in front. -/
theorem Ring.contents_put_front {cap : Nat} {r : Ring} (b : Side) (v : Byte) (hr : r.Wf cap) (hm : r.mem.wf = true) :
    r.contents cap <+: (Ring.put b cap v r).contents cap := by
  obtain hc | hc := Nat.lt_or_ge r.count cap
  · rw [Ring.contents_put_room b v hr hm hc]
    exact ⟨[v], rfl⟩
  · rw [Ring.put_full b v hc]

/-- The RX buffer of `t` still holds the bytes that of `s` holds, in front and where they were. -/
structure State.StillHolds (s t : State) : Prop where
  par : t.par = s.par
  tail : t.rxb.tail = s.rxb.tail
  count : s.rxb.count ≤ t.rxb.count
  bytes : s.rxb.contents s.par.RX_CAP <+: t.rxb.contents s.par.RX_CAP

/-- A cycle without INIT and GET_BYTE keeps the bytes held. -/
theorem State.StillHolds.step {s t u : State} (hst : s.StillHolds t) (ht : t.Inv) (hno : t.without isInitOrGet 1)
    (h : step t = .next u) : s.StillHolds u := by
  obtain ⟨hpar, htail, hcount, hbytes⟩ := hst
  have hpar' : u.par = s.par := (step_par h).trans hpar
  obtain ⟨a, ha⟩ := rxSubstep_completes t
  have hu : u.rxb = a.rxb := step_rxb hno ha h
  obtain he | ⟨v, he⟩ := rxSubstep_rxb_cases ha
  · rw [he] at hu
    exact ⟨hpar', hu ▸ htail, hu ▸ hcount, hu ▸ hbytes⟩
  · rw [he] at hu
    obtain ⟨htail', hcount'⟩ := Ring.put_keeps hu.symm
    have hfront := Ring.contents_put_front .rx v ht.rx_ring ht.rx_mem
    rw [← hu, hpar] at hfront
    exact ⟨hpar', htail'.trans htail, hcount.trans hcount', hbytes.trans hfront⟩

/-- Settles O54: the oldest byte held stays the oldest, and a GET_BYTE takes that. -/
theorem heldByteWaitsForTheHost : Obligations.HeldByteWaitsForTheHost := by
  intro n s hs hc hno
  obtain ⟨t, hrun, ht, hpar, htail, hcount, hbytes⟩ := cycles_without (Q := fun _ t => s.StillHolds t)
    (fun _ _ _ _ ht hno hst h => hst.step ht hno h) hs hno
    ⟨rfl, rfl, Nat.le_refl _, ⟨[], List.append_nil _⟩⟩ (Nat.le_refl n)
  rw [Ring.contents_eq_cons hc hs.rx_ring.tail_lt] at hbytes
  obtain ⟨vs, hvs⟩ := hbytes
  obtain ⟨q, hq, -⟩ := getByte_of_contents ht.rx_ring.tail_lt (hpar ▸ hvs.symm)
  exact ⟨t, _, hrun, htail, hcount, hq, rfl, rfl⟩

/-- Sub-step 3 stores no byte in the TX buffer. -/
theorem txSubstep_txb_count {s t : State} (h : txSubstep s = .next t) : t.txb.count ≤ s.txb.count := by
  obtain ⟨-, he⟩ | ⟨-, -, he⟩ | ⟨-, -, he⟩ := txSubstep_cases s
  · cases he.symm.trans h; exact Nat.le_refl _
  · have htick := he.symm.trans h
    obtain hsame | ⟨d, hi⟩ | hi | hi := exec_txb_cases htick
    · exact (congrArg Ring.count hsame).le
    · cases hst : s.tx_state <;> rw [hst] at hi <;> cases hi
    · rw [hi] at htick
      obtain ⟨_, _, hq, rfl⟩ := execTxTickStart_next htick
      exact (Ring.get_keeps hq).2.2
    · cases hst : s.tx_state <;> rw [hst] at hi <;> cases hi
  · cases he.symm.trans h; exact Nat.le_refl _

/-- A cycle without INIT and PUT_BYTE stores no byte in the TX buffer. -/
theorem step_txb_count {s t : State} (hno : s.without isInitOrPut 1) (h : step s = .next t) : t.txb.count ≤ s.txb.count := by
  obtain ⟨c, d, hc, hd, rfl⟩ := step_next_of_run h hno.rst
  have hnoc := hno.congr (tickSide_inputs hc)
  obtain ⟨b, hview, -, hb⟩ := tickSide_of_tx hc
  have hbtxb : b.txb = s.txb := congrArg TxView.txb hview
  obtain hdv | ⟨v, hv, hdec, -⟩ := hostSubstep_tx_cases (hnoc.mono fun _ => isInit_of_isInitOrPut) hd
  · have hdc : d.txb = c.txb := congrArg TxView.txb hdv
    exact (congrArg Ring.count hdc).le.trans (hbtxb ▸ txSubstep_txb_count hb)
  · exact absurd rfl (decodeCmd_ne_putByte (hnoc.word hv) hdec v)

/-- PUT_BYTE on a buffer with room appends its byte. -/
theorem putByte_contents {s : State} (hs : s.Inv) (d : Byte) (hc : s.txb.count < s.par.TX_CAP) :
    ∃ u, exec (.putByte d) s = .next u ∧ u.txb.contents s.par.TX_CAP = s.txb.contents s.par.TX_CAP ++ [d] :=
  ⟨_, putByte_eq d s, Ring.contents_put_room .tx d hs.tx_ring hs.tx_mem hc⟩

/-- Settles O55: the count does not grow, so there still is room, and PUT_BYTE appends. -/
theorem freeSlotWaitsForTheHost : Obligations.FreeSlotWaitsForTheHost := by
  intro n s d hs hc hno
  obtain ⟨t, hrun, ht, hcount⟩ := cycles_without (Q := fun _ t => t.txb.count ≤ s.txb.count)
    (fun _ _ _ _ _ hno hq h => (step_txb_count hno h).trans hq) hs hno (Nat.le_refl _) (Nat.le_refl n)
  have hpar : t.par = s.par := cycles_par hrun
  obtain ⟨u, hu, hcontents⟩ := putByte_contents ht d (hpar ▸ hcount.trans_lt hc)
  exact ⟨t, u, hrun, hcount, hu, hpar ▸ hcontents⟩

end Sys2Proof.Machine

/-! PROOFS of the family 'other', independence: what becomes of the transmit side depends on nothing of the receive side (O44),
and the other way round (O45). Of two states that agree on one side, each sub-step makes states that agree on it. -/

namespace Sys2Proof.Machine

/-! ## The sub-steps of a counting generator -/

/-- A generator that does not fire counts down in its width. -/
theorem rxSubstep_dec {s : State} (hg : s.rxg.act = true) (h1 : s.rxg.cnt ≠ 1) :
    rxSubstep s = .next (s.setGen .rx { act := true, cnt := decInWidth s.par.CW s.rxg.cnt }) := by
  simp [rxSubstep, State.timerStep, hg, h1]

/-- A generator that does not fire counts down in its width. -/
theorem txSubstep_dec {s : State} (hg : s.txg.act = true) (h1 : s.txg.cnt ≠ 1) :
    txSubstep s = .next (s.setGen .tx { act := true, cnt := decInWidth s.par.CW s.txg.cnt }) := by
  simp [txSubstep, State.timerStep, hg, h1]

/-! ## The transmit side (R95, R170) -/

/-- A TX tick reads the transmit side alone. -/
theorem txTick_txView_congr {st : Fsm} {s s' t t' : State} (h : s.txView = s'.txView) (ht : exec (txTickOf st) s = .next t)
    (ht' : exec (txTickOf st) s' = .next t') : t.txView = t'.txView := by
  cases st with
  | idle => cases ht; cases ht'; exact congrArg (fun v : TxView => { v with tx_state := .start }) h
  | start =>
    have hpar : s.par = s'.par := congrArg TxView.par h
    have htxb : s.txb = s'.txb := congrArg TxView.txb h
    obtain ⟨vo, q, hq, rfl⟩ := execTxTickStart_next ht
    cases (txTickStart_of_get (hpar ▸ htxb ▸ hq)).symm.trans ht'
    exact congrArg (fun v : TxView => { v with tx_o := false, tx_shift := vo.1, tx_idx := 0#3, tx_state := .bit, txb := q }) h
  | bit =>
    cases ht; cases ht'
    exact congrArg (fun v : TxView => { v with
      tx_o := getBit v.tx_shift v.tx_idx, tx_idx := v.tx_idx + 1#3
      tx_state := if v.tx_idx = 7#3 then .stop else v.tx_state }) h
  | stop =>
    have hcount : s.txb.count = s'.txb.count := congrArg (fun v => v.txb.count) h
    obtain ⟨hc, he⟩ | ⟨hc, he⟩ := execTxTickStop_cases s <;> cases he.symm.trans ht
    · cases (txTickStop_empty (hcount ▸ hc)).symm.trans ht'
      exact congrArg (fun v : TxView => { v with txg := Gen.off, tx_o := true, tx_state := .idle }) h
    · cases (txTickStop_queued (hcount ▸ hc)).symm.trans ht'
      exact congrArg (fun v : TxView => { v with tx_o := true, tx_state := .start }) h

/-- The writes INIT and reset share leave the same transmit side in states that had the same. -/
theorem initBlock_txView_congr {s s' : State} (h : s.txView = s'.txView) : s.initBlock.txView = s'.initBlock.txView :=
  congrArg (fun v : TxView => { v with
    tx_state := .idle, tx_idx := 0#3, tx_shift := 0x00#8, tx_o := true, txg := Gen.off, txb := v.txb.emptied }) h

/-- Of the transmit side a command makes what it was and its own word say. -/
theorem command_txView_congr {i : Instr} {s s' t t' : State} (hi : i.isCommand = true) (h : s.txView = s'.txView)
    (ht : exec i s = .next t) (ht' : exec i s' = .next t') : t.txView = t'.txView := by
  by_cases hinit : i = .init
  · subst hinit
    cases ht; cases ht'
    exact (initBlock_txView_congr h :)
  by_cases hput : ∃ d, i = .putByte d
  · obtain ⟨d, rfl⟩ := hput
    cases (putByte_eq d s).symm.trans ht
    cases (putByte_eq d s').symm.trans ht'
    exact congrArg (fun v : TxView => { v with
      txb := Ring.put .tx v.par.TX_CAP d v.txb, txg := if v.txg.act then v.txg else { act := true, cnt := v.par.TX_OFF } }) h
  · have hkeep {s t : State} (ht : exec i s = .next t) : t.txView = s.txView :=
      command_txView_eq hi hinit (fun d hd => hput ⟨d, hd⟩) ht
    rw [hkeep ht, hkeep ht', h]

theorem txSubstep_txView_congr {s s' t t' : State} (h : s.txView = s'.txView) (ht : txSubstep s = .next t)
    (ht' : txSubstep s' = .next t') : t.txView = t'.txView := by
  have hgen : s.txg = s'.txg := congrArg TxView.txg h
  have hst : s.tx_state = s'.tx_state := congrArg TxView.tx_state h
  have hset (f : TxView → Gen) : (s.setGen .tx (f s.txView)).txView = (s'.setGen .tx (f s'.txView)).txView :=
    congrArg (fun v : TxView => { v with txg := f v }) h
  obtain ⟨hg, he⟩ | ⟨hg, h1, he⟩ | ⟨hg, h1, he⟩ := txSubstep_cases s
  · cases he.symm.trans ht
    cases (txSubstep_off (hgen ▸ hg)).symm.trans ht'
    exact h
  · exact txTick_txView_congr (hset fun v => { act := true, cnt := v.par.P }) (he.symm.trans ht)
      (hst ▸ (txSubstep_fire (hgen ▸ hg) (hgen ▸ h1)).symm.trans ht')
  · cases he.symm.trans ht
    cases (txSubstep_dec (hgen ▸ hg) (hgen ▸ h1)).symm.trans ht'
    exact hset fun v => { act := true, cnt := decInWidth v.par.CW v.txg.cnt }

theorem hostSubstep_txView_congr {s s' t t' : State} (h : s.txView = s'.txView) (hvalid : s.input.cmd_valid = s'.input.cmd_valid)
    (hcmd : s.input.cmd = s'.input.cmd) (ht : hostSubstep s = .next t) (ht' : hostSubstep s' = .next t') :
    t.txView = t'.txView := by
  obtain ⟨hv, he⟩ | ⟨hv, i, hi, he⟩ | ⟨hv, ⟨r, hr⟩, he⟩ := hostSubstep_cases s
  · cases he.symm.trans ht
    cases (hostSubstep_idle (hvalid ▸ hv)).symm.trans ht'
    exact h
  · exact command_txView_congr (isCommand_of_decodeCmd hi) h (he.symm.trans ht)
      ((hostSubstep_command (hvalid ▸ hv) (hcmd ▸ hi)).symm.trans ht')
  · cases he.symm.trans ht
    cases (hostSubstep_illegal (hvalid ▸ hv) (hcmd ▸ hr)).symm.trans ht'
    exact h

/-- Settles O44: sub-steps 1 and 2 keep the transmit side, and sub-steps 3 and 4 make of it what it, and the command, say. -/
theorem txSideIgnoresTheRxSide : Obligations.TxSideIgnoresTheRxSide := by
  intro s s' t t' h hrst hvalid hcmd ht ht'
  cases hr : s.input.rst with
  | true =>
    obtain rfl := next_inj ((step_of_reset (step_next ht).1 hr).symm.trans ht)
    obtain rfl := next_inj ((step_of_reset (step_next ht').1 (hrst ▸ hr)).symm.trans ht')
    exact (initBlock_txView_congr h :)
  | false =>
    obtain ⟨c, d, hc, hd, rfl⟩ := step_next_of_run ht hr
    obtain ⟨c', d', hc', hd', rfl⟩ := step_next_of_run ht' (hrst ▸ hr)
    obtain ⟨b, hb, -, hbc⟩ := tickSide_of_tx hc
    obtain ⟨b', hb', -, hbc'⟩ := tickSide_of_tx hc'
    have hin : c.input = s.input := input_congr (tickSide_inputs hc)
    have hin' : c'.input = s'.input := input_congr (tickSide_inputs hc')
    have hview : c.txView = c'.txView := txSubstep_txView_congr ((hb.trans h).trans hb'.symm) hbc hbc'
    exact (hostSubstep_txView_congr hview (by rw [hin, hin', hvalid]) (by rw [hin, hin', hcmd]) hd hd' :)

/-! ## The receive side (R95, R170) -/

/-- An RX tick reads the receive side and the line. -/
theorem rxTick_rxView_congr {st : Fsm} {s s' t t' : State} (h : s.rxView = s'.rxView) (hline : s.rx_i = s'.rx_i)
    (ht : exec (rxTickOf st) s = .next t) (ht' : exec (rxTickOf st) s' = .next t') : t.rxView = t'.rxView := by
  cases st with
  | idle => cases ht; cases ht'; exact h
  | start =>
    cases ht; cases ht'
    exact congrArg (fun v : RxView => { v with rx_idx := 0#3, rx_shift := 0x00#8, rx_state := .bit }) h
  | bit =>
    have hidx : s.rx_idx = s'.rx_idx := congrArg RxView.rx_idx h
    have hsample : s.sampleBit.rxView = s'.sampleBit.rxView := congrArg₂ (fun (v : RxView) level => { v with
      rx_shift := setBit v.rx_shift v.rx_idx level, rx_idx := v.rx_idx + 1#3 }) h hline
    by_cases hi : s.rx_idx = 7#3
    · cases (rxTickBit_last hi).symm.trans ht
      cases (rxTickBit_last (hidx ▸ hi)).symm.trans ht'
      exact congrArg (fun v : RxView => { v with rxb := Ring.put .rx v.par.RX_CAP v.rx_shift v.rxb, rx_state := .stop }) hsample
    · cases (rxTickBit_inner hi).symm.trans ht
      cases (rxTickBit_inner (hidx ▸ hi)).symm.trans ht'
      exact hsample
  | stop =>
    cases ht; cases ht'
    exact congrArg (fun v : RxView => { v with rxg := Gen.off, edge_en := true, rx_state := .idle }) h

theorem rxSubstep_rxView_congr {s s' t t' : State} (h : s.rxView = s'.rxView) (hline : s.rx_i = s'.rx_i)
    (ht : rxSubstep s = .next t) (ht' : rxSubstep s' = .next t') : t.rxView = t'.rxView := by
  have hgen : s.rxg = s'.rxg := congrArg RxView.rxg h
  have hst : s.rx_state = s'.rx_state := congrArg RxView.rx_state h
  have hset (f : RxView → Gen) : (s.setGen .rx (f s.rxView)).rxView = (s'.setGen .rx (f s'.rxView)).rxView :=
    congrArg (fun v : RxView => { v with rxg := f v }) h
  obtain ⟨hg, he⟩ | ⟨hg, h1, he⟩ | ⟨hg, h1, he⟩ := rxSubstep_cases s
  · cases he.symm.trans ht
    cases (rxSubstep_off (hgen ▸ hg)).symm.trans ht'
    exact h
  · exact rxTick_rxView_congr (hset fun v => { act := true, cnt := v.par.P }) (by simpa using hline) (he.symm.trans ht)
      (hst ▸ (rxSubstep_fire (hgen ▸ hg) (hgen ▸ h1)).symm.trans ht')
  · cases he.symm.trans ht
    cases (rxSubstep_dec (hgen ▸ hg) (hgen ▸ h1)).symm.trans ht'
    exact hset fun v => { act := true, cnt := decInWidth v.par.CW v.rxg.cnt }

/-- The edge sub-step reads the receive side and the line. -/
theorem edgeSubstep_rxView_congr {s s' t t' : State} (h : s.rxView = s'.rxView) (hline : s.rx_i = s'.rx_i)
    (ht : edgeSubstep s = .next t) (ht' : edgeSubstep s' = .next t') : t.rxView = t'.rxView := by
  have htaken : (s.fall = true ∧ s.edge_en = true ∧ s.rx_state = .idle) ↔
      (s'.fall = true ∧ s'.edge_en = true ∧ s'.rx_state = .idle) := by
    have hprev : s.rx_prev = s'.rx_prev := congrArg RxView.rx_prev h
    have hen : s.edge_en = s'.edge_en := congrArg RxView.edge_en h
    have hst : s.rx_state = s'.rx_state := congrArg RxView.rx_state h
    simp [State.fall, hprev, hen, hst, hline]
  obtain ⟨hf, he1, hs1, he⟩ | ⟨hn, he⟩ := edgeSubstep_cases s <;>
    obtain ⟨hf', he1', hs1', he'⟩ | ⟨hn', he'⟩ := edgeSubstep_cases s'
  · cases he.symm.trans ht
    cases he'.symm.trans ht'
    exact congrArg₂ (fun (v : RxView) level => { v with
      rxg := { act := true, cnt := v.par.RX_OFF }, rx_state := .start, edge_en := false, rx_prev := level }) h hline
  · exact absurd (htaken.mp ⟨hf, he1, hs1⟩) hn'
  · exact absurd (htaken.mpr ⟨hf', he1', hs1'⟩) hn
  · cases he.symm.trans ht
    cases he'.symm.trans ht'
    exact congrArg₂ (fun (v : RxView) level => { v with rx_prev := level }) h hline

/-- The writes INIT and reset share leave the same receive side in states that had the same. -/
theorem initBlock_rxView_congr {s s' : State} (h : s.rxView = s'.rxView) : s.initBlock.rxView = s'.initBlock.rxView :=
  congrArg (fun v : RxView => { v with
    rx_state := .idle, rx_idx := 0#3, rx_shift := 0x00#8, edge_en := true, rxg := Gen.off, rxb := v.rxb.emptied }) h

/-- Of the receive side a command makes what it was and the command say. -/
theorem command_rxView_congr {i : Instr} {s s' t t' : State} (hi : i.isCommand = true) (h : s.rxView = s'.rxView)
    (ht : exec i s = .next t) (ht' : exec i s' = .next t') : t.rxView = t'.rxView := by
  by_cases hinit : i = .init
  · subst hinit
    cases ht; cases ht'
    exact (initBlock_rxView_congr h :)
  by_cases hget : i = .getByte
  · subst hget
    have hpar : s.par = s'.par := congrArg RxView.par h
    have hrxb : s.rxb = s'.rxb := congrArg RxView.rxb h
    obtain ⟨vo, q, hq, rfl⟩ := execGetByte_next ht
    cases (getByte_of_get (hpar ▸ hrxb ▸ hq)).symm.trans ht'
    exact congrArg (fun v : RxView => { v with rxb := q }) h
  · rw [command_rxView_eq hi hinit hget ht, command_rxView_eq hi hinit hget ht', h]

theorem hostSubstep_rxView_congr {s s' t t' : State} (h : s.rxView = s'.rxView) (hin : s.input = s'.input)
    (ht : hostSubstep s = .next t) (ht' : hostSubstep s' = .next t') : t.rxView = t'.rxView := by
  obtain ⟨hv, he⟩ | ⟨hv, i, hi, he⟩ | ⟨hv, ⟨r, hr⟩, he⟩ := hostSubstep_cases s
  · cases he.symm.trans ht
    cases (hostSubstep_idle (hin ▸ hv)).symm.trans ht'
    exact h
  · exact command_rxView_congr (isCommand_of_decodeCmd hi) h (he.symm.trans ht)
      ((hostSubstep_command (hin ▸ hv) (hin ▸ hi)).symm.trans ht')
  · cases he.symm.trans ht
    cases (hostSubstep_illegal (hin ▸ hv) (hin ▸ hr)).symm.trans ht'
    exact h

/-- Settles O45: sub-steps 1 and 2 make of the receive side what it and the line say, sub-step 3 keeps it, and sub-step 4 makes
of it what it and the command say. -/
theorem rxSideIgnoresTheTxSide : Obligations.RxSideIgnoresTheTxSide := by
  intro s s' t t' h hin ht ht'
  cases hr : s.input.rst with
  | true =>
    obtain rfl := next_inj ((step_of_reset (step_next ht).1 hr).symm.trans ht)
    obtain rfl := next_inj ((step_of_reset (step_next ht').1 (hin ▸ hr)).symm.trans ht')
    exact congrArg (fun v : RxView => { v with rx_prev := true }) (initBlock_rxView_congr h)
  | false =>
    obtain ⟨c, d, hc, hd, rfl⟩ := step_next_of_run ht hr
    obtain ⟨c', d', hc', hd', rfl⟩ := step_next_of_run ht' (hin ▸ hr)
    obtain ⟨a, b, ha, hb, hbc⟩ := tickSide_next.mp hc
    obtain ⟨a', b', ha', hb', hbc'⟩ := tickSide_next.mp hc'
    have hline : s.rx_i = s'.rx_i := congrArg Input.rx_i hin
    have hab : b.rxView = b'.rxView := edgeSubstep_rxView_congr (rxSubstep_rxView_congr h hline ha ha')
      (by rw [rx_i_congr (rxSubstep_inputs ha), rx_i_congr (rxSubstep_inputs ha'), hline]) hb hb'
    have hview : c.rxView = c'.rxView := (txSubstep_rxView hbc).trans (hab.trans (txSubstep_rxView hbc').symm)
    have hinc : c.input = c'.input := by
      rw [input_congr (tickSide_inputs hc), input_congr (tickSide_inputs hc'), hin]
    exact (hostSubstep_rxView_congr hview hinc hd hd' :)

end Sys2Proof.Machine

/-! PROOFS of the family 'other', dead storage (O46). Two buffers agree when they have the same indices and hold the same bytes;
puts and gets keep that. A state that agrees with `s` is `s` with other buffers, and every instruction, run on the two, gives
two that agree. -/

namespace Sys2Proof.Machine

/-! ## Buffers that agree (R32) -/

/-- Buffers agree when they have the same indices and hold the same bytes. -/
theorem Ring.agree_iff {cap : Nat} {r q : Ring} : Ring.Agree cap r q ↔
    r.head = q.head ∧ r.tail = q.tail ∧ r.count = q.count ∧ r.stray = q.stray ∧ r.contents cap = q.contents cap := by
  have hslots (hc : r.count = q.count) : r.contents cap = q.contents cap ↔
      ∀ j, j < r.count → Memory.read r.mem ((r.tail + j) % cap) = Memory.read q.mem ((q.tail + j) % cap) := by
    simp [Ring.contents, ← hc, List.map_inj_left]
  constructor
  · rintro ⟨hh, ht, hc, hs, hb⟩
    exact ⟨hh, ht, hc, hs, (hslots hc).mpr hb⟩
  · rintro ⟨hh, ht, hc, hs, hb⟩
    exact ⟨hh, ht, hc, hs, (hslots hc).mp hb⟩

section
variable {cap : Nat} {r q : Ring} (h : Ring.Agree cap r q)
include h

theorem Ring.Agree.contents : r.contents cap = q.contents cap := (Ring.agree_iff.mp h).2.2.2.2

theorem Ring.Agree.emptied : Ring.Agree cap r.emptied q.emptied :=
  ⟨rfl, rfl, rfl, h.stray, fun _ hj => absurd hj (Nat.not_lt_zero _)⟩

/-- A put appends the same byte to both, or drops it from both. -/
theorem Ring.Agree.put (b : Side) (v : Byte) (hr : r.Wf cap) (hq : q.Wf cap) (hrm : r.mem.wf = true) (hqm : q.mem.wf = true) :
    Ring.Agree cap (Ring.put b cap v r) (Ring.put b cap v q) := by
  have hbytes : (Ring.put b cap v r).contents cap = (Ring.put b cap v q).contents cap := by
    rw [Ring.contents_put b v hr hrm, Ring.contents_put b v hq hqm, h.contents]
  obtain hc | hc := Nat.lt_or_ge r.count cap
  · rw [Ring.put_room b v hc hr.head_lt, Ring.put_room b v (h.count ▸ hc) hq.head_lt] at hbytes ⊢
    exact Ring.agree_iff.mpr ⟨congrArg (nextSlot cap) h.head, h.tail, congrArg (· + 1) h.count, h.stray, hbytes⟩
  · rwa [Ring.put_full b v hc, Ring.put_full b v (h.count ▸ hc)]

/-- A get takes the same byte from both. -/
theorem Ring.Agree.get (b : Side) (e : Byte) (hr : r.Wf cap) (hq : q.Wf cap) {vo : Byte × Bool} {r' : Ring}
    (hget : Ring.get b cap e r = (vo, r')) : ∃ q', Ring.get b cap e q = (vo, q') ∧ Ring.Agree cap r' q' := by
  obtain hc | hc := Nat.eq_zero_or_pos r.count
  · cases (Ring.get_empty b e hc).symm.trans hget
    exact ⟨q, Ring.get_empty b e (h.count ▸ hc), h⟩
  · cases (Ring.get_byte b e hc hr.tail_lt).symm.trans hget
    have hbytes := h.contents
    rw [Ring.contents_eq_cons hc hr.tail_lt, Ring.contents_eq_cons (h.count ▸ hc) hq.tail_lt] at hbytes
    obtain ⟨hv, hvs⟩ := List.cons.inj hbytes
    have hgetq := Ring.get_byte b e (h.count ▸ hc) hq.tail_lt
    rw [← hv] at hgetq
    exact ⟨_, hgetq, Ring.agree_iff.mpr ⟨h.head, congrArg (nextSlot cap) h.tail, congrArg (· - 1) h.count, h.stray, hvs⟩⟩

end

/-! ## States that agree -/

/-- `s` with the buffers `r` and `q`. -/
def State.withRings (r q : Ring) (s : State) : State := { s with rxb := r, txb := q }

/-- The states that agree with `s` are `s` with buffers that agree with its own. -/
theorem State.agree_iff {s t : State} : s.Agree t ↔
    ∃ r q, t = s.withRings r q ∧ Ring.Agree s.par.RX_CAP s.rxb r ∧ Ring.Agree s.par.TX_CAP s.txb q := by
  constructor
  · rintro ⟨hrest, hrx, htx⟩
    exact ⟨_, _, hrest.symm, hrx, htx⟩
  · rintro ⟨r, q, rfl, hrx, htx⟩
    exact ⟨rfl, hrx, htx⟩

/-- `s` agrees with itself with buffers that agree with its own. -/
theorem agree_withRings {s : State} {r q : Ring} (hr : Ring.Agree s.par.RX_CAP s.rxb r) (hq : Ring.Agree s.par.TX_CAP s.txb q) :
    s.Agree (s.withRings r q) :=
  State.agree_iff.mpr ⟨r, q, rfl, hr, hq⟩

section
variable {s t : State} (h : s.Agree t)
include h

theorem State.Agree.par : s.par = t.par := by
  obtain ⟨r, q, rfl, -, -⟩ := State.agree_iff.mp h
  rfl

theorem State.Agree.input : s.input = t.input := by
  obtain ⟨r, q, rfl, -, -⟩ := State.agree_iff.mp h
  rfl

theorem State.Agree.outputs : s.outputs = t.outputs := by
  obtain ⟨r, q, rfl, -, -⟩ := State.agree_iff.mp h
  rfl

/-- The conditions on the buffers are conditions on their counts (R82, R83). -/
theorem State.Agree.flags (b : Side) : s.rbEmpty b = t.rbEmpty b ∧ s.rbFull b = t.rbFull b := by
  obtain ⟨r, q, rfl, hr, hq⟩ := State.agree_iff.mp h
  have hrx : r.count = s.rxb.count := hr.count.symm
  have htx : q.count = s.txb.count := hq.count.symm
  cases b <;> simp [State.rbEmpty, State.rbFull, State.withRings, hrx, htx]

theorem State.Agree.statusByte : s.statusByte = t.statusByte := by
  obtain ⟨hrxe, hrxf⟩ := h.flags .rx
  obtain ⟨htxe, htxf⟩ := h.flags .tx
  obtain ⟨r, q, rfl, -, -⟩ := State.agree_iff.mp h
  simp only [State.statusByte, hrxe, hrxf, htxe, htxf]
  rfl

theorem State.Agree.respond (d : Byte) (f : Bool) : (s.respond d f).Agree (t.respond d f) := by
  obtain ⟨r, q, rfl, hr, hq⟩ := State.agree_iff.mp h
  exact agree_withRings hr hq

theorem State.Agree.setGen (b : Side) (g : Gen) : (s.setGen b g).Agree (t.setGen b g) := by
  obtain ⟨r, q, rfl, hr, hq⟩ := State.agree_iff.mp h
  cases b <;> exact agree_withRings hr hq

end

/-! ## The instructions -/

/-- Every instruction, run on states that agree, gives states that agree. -/
theorem exec_agree {i : Instr} {s t s' : State} (hs : s.Inv) (ht : t.Inv) (h : s.Agree t) (hs' : exec i s = .next s') :
    ∃ t', exec i t = .next t' ∧ s'.Agree t' := by
  obtain ⟨r, q, rfl, hr, hq⟩ := State.agree_iff.mp h
  cases i with
  | nop | rxTickIdle | rxTickStart | rxTickStop | txTickIdle | txTickBit =>
    cases hs'
    exact ⟨_, rfl, State.agree_iff.mpr ⟨r, q, rfl, hr, hq⟩⟩
  | rxEmpty | txEmpty | rxFull | txFull =>
    cases hs'
    refine ⟨_, rfl, ?_⟩
    simp only [h.flags]
    exact h.respond _ _
  | status =>
    cases hs'
    refine ⟨_, rfl, ?_⟩
    rw [h.statusByte]
    exact h.respond _ _
  | init =>
    cases hs'
    exact ⟨_, rfl, State.agree_iff.mpr ⟨r.emptied, q.emptied, rfl, hr.emptied, hq.emptied⟩⟩
  | getByte =>
    obtain ⟨vo, r', hget, rfl⟩ := execGetByte_next hs'
    obtain ⟨q', hget', hr'⟩ := hr.get .rx _ hs.rx_ring ht.rx_ring hget
    exact ⟨_, getByte_of_get hget', State.agree_iff.mpr ⟨q', q, rfl, hr', hq⟩⟩
  | putByte d =>
    cases (putByte_eq d s).symm.trans hs'
    have hput := hq.put .tx d hs.tx_ring ht.tx_ring hs.tx_mem ht.tx_mem
    exact ⟨_, putByte_eq d _, State.agree_iff.mpr ⟨r, _, rfl, hr, hput⟩⟩
  | rxEdge st =>
    obtain ⟨h1, h2, h3, h4, he⟩ | ⟨hn, he⟩ := execRxEdge_cases st s <;> cases he.symm.trans hs'
    · exact ⟨_, if_pos ⟨h1, h2, h3, h4⟩, State.agree_iff.mpr ⟨r, q, rfl, hr, hq⟩⟩
    · exact ⟨_, if_neg hn, h⟩
  | rxTickBit =>
    by_cases hi : s.rx_idx = 7#3
    · cases (rxTickBit_last hi).symm.trans hs'
      have hput := hr.put .rx s.sampleBit.rx_shift hs.rx_ring ht.rx_ring hs.rx_mem ht.rx_mem
      exact ⟨_, rxTickBit_last (s := s.withRings r q) hi, State.agree_iff.mpr ⟨_, q, rfl, hput, hq⟩⟩
    · cases (rxTickBit_inner hi).symm.trans hs'
      exact ⟨_, rxTickBit_inner (s := s.withRings r q) hi, State.agree_iff.mpr ⟨r, q, rfl, hr, hq⟩⟩
  | txTickStart =>
    obtain ⟨vo, q', hget, rfl⟩ := execTxTickStart_next hs'
    obtain ⟨q'', hget', hq'⟩ := hq.get .tx _ hs.tx_ring ht.tx_ring hget
    exact ⟨_, txTickStart_of_get (s := s.withRings r q) hget', State.agree_iff.mpr ⟨r, q'', rfl, hr, hq'⟩⟩
  | txTickStop =>
    obtain ⟨hc, he⟩ | ⟨hc, he⟩ := execTxTickStop_cases s <;> cases he.symm.trans hs'
    · exact ⟨_, txTickStop_empty (s := s.withRings r q) (hq.count ▸ hc), State.agree_iff.mpr ⟨r, q, rfl, hr, hq⟩⟩
    · exact ⟨_, txTickStop_queued (s := s.withRings r q) (hq.count ▸ hc), State.agree_iff.mpr ⟨r, q, rfl, hr, hq⟩⟩

/-! ## The cycle -/

theorem rxSubstep_agree {s t s' : State} (hs : s.Inv) (ht : t.Inv) (h : s.Agree t) (hs' : rxSubstep s = .next s') :
    ∃ t', rxSubstep t = .next t' ∧ s'.Agree t' := by
  obtain ⟨r, q, rfl, -, -⟩ := State.agree_iff.mp h
  obtain ⟨hg, he⟩ | ⟨hg, h1, he⟩ | ⟨hg, h1, he⟩ := rxSubstep_cases s
  · cases he.symm.trans hs'
    exact ⟨_, rxSubstep_off (s := s.withRings r q) hg, h⟩
  · have hfire := rxSubstep_fire (s := s.withRings r q) hg h1
    obtain ⟨t', ht', h'⟩ := exec_agree (hs.setGen_reload (b := .rx) hg) (ht.setGen_reload (b := .rx) hg) (h.setGen .rx _)
      (he.symm.trans hs')
    exact ⟨t', hfire.trans ht', h'⟩
  · cases he.symm.trans hs'
    exact ⟨_, rxSubstep_dec (s := s.withRings r q) hg h1, h.setGen .rx _⟩

theorem txSubstep_agree {s t s' : State} (hs : s.Inv) (ht : t.Inv) (h : s.Agree t) (hs' : txSubstep s = .next s') :
    ∃ t', txSubstep t = .next t' ∧ s'.Agree t' := by
  obtain ⟨r, q, rfl, -, -⟩ := State.agree_iff.mp h
  obtain ⟨hg, he⟩ | ⟨hg, h1, he⟩ | ⟨hg, h1, he⟩ := txSubstep_cases s
  · cases he.symm.trans hs'
    exact ⟨_, txSubstep_off (s := s.withRings r q) hg, h⟩
  · have hfire := txSubstep_fire (s := s.withRings r q) hg h1
    obtain ⟨t', ht', h'⟩ := exec_agree (hs.setGen_reload (b := .tx) hg) (ht.setGen_reload (b := .tx) hg) (h.setGen .tx _)
      (he.symm.trans hs')
    exact ⟨t', hfire.trans ht', h'⟩
  · cases he.symm.trans hs'
    exact ⟨_, txSubstep_dec (s := s.withRings r q) hg h1, h.setGen .tx _⟩

theorem edgeSubstep_agree {s t s' : State} (h : s.Agree t) (hs' : edgeSubstep s = .next s') :
    ∃ t', edgeSubstep t = .next t' ∧ s'.Agree t' := by
  obtain ⟨r, q, rfl, hr, hq⟩ := State.agree_iff.mp h
  obtain ⟨hf, hen, hst, he⟩ | ⟨hn, he⟩ := edgeSubstep_cases s <;> cases he.symm.trans hs' <;>
    obtain ⟨hf', hen', hst', he'⟩ | ⟨hn', he'⟩ := edgeSubstep_cases (s.withRings r q)
  · exact ⟨_, he', State.agree_iff.mpr ⟨r, q, rfl, hr, hq⟩⟩
  · exact absurd ⟨hf, hen, hst⟩ hn'
  · exact absurd ⟨hf', hen', hst'⟩ hn
  · exact ⟨_, he', State.agree_iff.mpr ⟨r, q, rfl, hr, hq⟩⟩

theorem hostSubstep_agree {s t s' : State} (hs : s.Inv) (ht : t.Inv) (h : s.Agree t) (hs' : hostSubstep s = .next s') :
    ∃ t', hostSubstep t = .next t' ∧ s'.Agree t' := by
  have hin := h.input
  obtain ⟨hv, he⟩ | ⟨hv, i, hi, he⟩ | ⟨hv, ⟨e, hr⟩, he⟩ := hostSubstep_cases s
  · cases he.symm.trans hs'
    exact ⟨t, hostSubstep_idle (hin ▸ hv), h⟩
  · rw [hostSubstep_command (hin ▸ hv) (hin ▸ hi)]
    exact exec_agree hs ht h (he.symm.trans hs')
  · cases he.symm.trans hs'
    refine ⟨_, hostSubstep_illegal (hin ▸ hv) (hin ▸ hr), ?_⟩
    obtain ⟨r, q, rfl, hr, hq⟩ := State.agree_iff.mp h
    exact State.agree_iff.mpr ⟨r, q, rfl, hr, hq⟩

/-- A cycle of states that agree gives states that agree. -/
theorem step_agree {s t s' : State} (hs : s.Inv) (ht : t.Inv) (h : s.Agree t) (hs' : step s = .next s') :
    ∃ t', step t = .next t' ∧ s'.Agree t' := by
  obtain ⟨hl, ⟨hr, rfl⟩ | ⟨hr, a, b, c, d, ha, hb, hc, hd, rfl⟩⟩ := step_next hs'
  · refine ⟨_, step_of_reset (h.par ▸ hl) (h.input ▸ hr), ?_⟩
    obtain ⟨r, q, rfl, hr, hq⟩ := State.agree_iff.mp h
    exact State.agree_iff.mpr ⟨r.emptied, q.emptied, rfl, hr.emptied, hq.emptied⟩
  · have hai := rxSubstep_keeps_inv hs ha
    have hbi := edgeSubstep_keeps_inv hai hb
    have hci := txSubstep_keeps_inv hbi hc
    obtain ⟨a', ha', hagree⟩ := rxSubstep_agree hs ht h ha
    have hai' := rxSubstep_keeps_inv ht ha'
    obtain ⟨b', hb', hagree⟩ := edgeSubstep_agree hagree hb
    have hbi' := edgeSubstep_keeps_inv hai' hb'
    obtain ⟨c', hc', hagree⟩ := txSubstep_agree hbi hbi' hagree hc
    obtain ⟨d', hd', hagree⟩ := hostSubstep_agree hci (txSubstep_keeps_inv hbi' hc') hagree hd
    refine ⟨_, step_of_substeps (h.par ▸ hl) (h.input ▸ hr) ha' hb' hc' hd', ?_⟩
    obtain ⟨r, q, rfl, hr, hq⟩ := State.agree_iff.mp hagree
    exact State.agree_iff.mpr ⟨r, q, rfl, hr, hq⟩

/-- Settles O46: `step_agree` through every cycle; the ports are registers, on which states that agree do. -/
theorem deadStorageNeverShows : Obligations.DeadStorageNeverShows := by
  intro n s t hs ht h
  suffices hrun : ∃ s' t', cycles n s = .next s' ∧ cycles n t = .next t' ∧ s'.Agree t' by
    obtain ⟨s', t', hs', ht', hagree⟩ := hrun
    exact ⟨s', t', hs', ht', hagree, hagree.outputs⟩
  induction n with
  | zero => exact ⟨s, t, rfl, rfl, h⟩
  | succ n ih =>
    obtain ⟨u, v, hu, hv, hagree⟩ := ih
    have hui := cycles_keeps_inv hs hu
    obtain ⟨s', hs'⟩ := step_completes hui.legal
    obtain ⟨t', ht', hagree'⟩ := step_agree hui (cycles_keeps_inv ht hv) hagree hs'
    exact ⟨s', t', (cycles_snoc hu).trans hs', (cycles_snoc hv).trans ht', hagree'⟩

end Sys2Proof.Machine

/-! PROOFS of the family 'other', the schedule of a transmitted frame (O51). `TxFrameAt` says where in its frame the transmitter
stands, by the ticks it has fired: the Idle tick, the Start tick, eight Bit ticks, the Stop tick to come. Each cycle moves it
one cycle on, and the level on the port is that of the last tick. After the Stop tick the line stays high until the next Start
tick, which is at least `P` cycles away. -/

namespace Sys2Proof.Machine

/-! ## Where in a frame the transmitter stands -/

/-- The state of the transmit machine after `j` ticks of a frame. -/
def txFramePhase : Nat → Fsm
  | 0 => .idle
  | 1 => .start
  | n + 2 => if n < 8 then .bit else .stop

/-- The level the last of `j` ticks of the frame of the byte `d` drove: the idle line, the start bit, the data bits. -/
def txFrameLevel (d : Byte) : Nat → Bool
  | 0 => true
  | 1 => true
  | 2 => false
  | n + 3 => d.getLsbD n

/-- The transmit side `v` at the start of cycle `k` of the frame of the byte `d`, put in the cycle of `s`, with `j` ticks fired:
tick `m` is due in cycle `TX_OFF + m*P`, and `d` is first in the buffer until the Start tick takes it. -/
structure TxFrameAt (s : State) (d : Byte) (j k : Nat) (v : TxView) : Prop where
  last : j ≤ 10
  state : v.tx_state = txFramePhase j
  active : v.txg.act = true
  due : k + v.txg.cnt = s.par.TX_OFF + j * s.par.P + 1
  level : v.tx_o = txFrameLevel d j
  queued : j < 2 → ∃ vs, v.txb.contents s.par.TX_CAP = d :: vs
  idx : ∀ n, j = n + 2 → v.tx_idx = BitVec.ofNat 3 n
  byte : 2 ≤ j → v.tx_shift = d

section
variable {s : State} {d : Byte} {j k : Nat} {v : TxView} (h : TxFrameAt s d j k v) (hv : v.Inv) (hpar : v.par = s.par)
include h hv hpar

/-- The ticks fired are those that were due before cycle `k`, as the count is in `[1, P]`. -/
theorem TxFrameAt.tick_lt_iff (m : Nat) : s.par.TX_OFF + m * s.par.P < k ↔ m < j := by
  obtain ⟨h1, hP⟩ := hv.cnt h.active
  rw [hpar] at hP
  have hdue := h.due
  constructor
  · intro hm
    have hmul : m * s.par.P < j * s.par.P := by omega
    exact Nat.lt_of_mul_lt_mul_right hmul
  · intro hm
    have hmul : (m + 1) * s.par.P ≤ j * s.par.P := Nat.mul_le_mul_right _ hm
    rw [Nat.succ_mul] at hmul
    omega

/-- The level on the port in cycle `k`, up to the cycle of the Stop tick. -/
theorem TxFrameAt.level_eq : v.tx_o =
    if k ≤ s.par.TX_OFF + s.par.P then true
    else if k ≤ s.par.TX_OFF + 2 * s.par.P then false
    else d.getLsbD ((k - 1 - (s.par.TX_OFF + s.par.P)) / s.par.P - 1) := by
  have hticks := h.tick_lt_iff hv hpar
  have hlevel := h.level
  have hstart : k ≤ s.par.TX_OFF + s.par.P ↔ j ≤ 1 := by have := hticks 1; omega
  have hbit : k ≤ s.par.TX_OFF + 2 * s.par.P ↔ j ≤ 2 := by have := hticks 2; omega
  obtain hj | rfl | ⟨n, rfl⟩ : j ≤ 1 ∨ j = 2 ∨ ∃ n, j = n + 3 := by
    obtain hj | hj := Nat.lt_or_ge j 3
    · omega
    · exact .inr (.inr ⟨j - 3, by omega⟩)
  · rw [if_pos (hstart.mpr hj), hlevel]
    obtain rfl | rfl := Nat.le_one_iff_eq_zero_or_eq_one.mp hj <;> rfl
  · rw [if_neg (mt hstart.mp (by omega)), if_pos (hbit.mpr (Nat.le_refl _)), hlevel]
    rfl
  · rw [if_neg (mt hstart.mp (by omega)), if_neg (mt hbit.mp (by omega)), hlevel]
    have hlo : s.par.TX_OFF + (n + 2) * s.par.P < k := (hticks _).mpr (by omega)
    have hhi : ¬s.par.TX_OFF + (n + 3) * s.par.P < k := fun hk => absurd ((hticks _).mp hk) (Nat.lt_irrefl _)
    have hdiv : (k - 1 - (s.par.TX_OFF + s.par.P)) / s.par.P = n + 1 := by
      rw [Nat.add_mul] at hlo hhi
      refine Nat.div_eq_of_lt_le ?_ ?_ <;> simp only [Nat.add_mul] <;> omega
    rw [hdiv]
    rfl

/-- In the cycle of the Stop tick the machine is in STOP and the count is 1. -/
theorem TxFrameAt.at_stop (hk : k = s.par.TX_OFF + 10 * s.par.P) : v.tx_state = .stop ∧ v.txg.cnt = 1 := by
  have hP : 0 < s.par.P := by
    obtain ⟨h1, hP⟩ := hv.cnt h.active
    exact hpar ▸ h1.trans hP
  have h9 : 9 < j := (h.tick_lt_iff hv hpar 9).mp (by omega)
  obtain rfl : j = 10 := by have := h.last; omega
  have hdue := h.due
  exact ⟨h.state, by omega⟩

end

/-! ## The ticks of a frame -/

/-- Every tick of the frame before the Stop tick takes the machine to its next phase and drives that phase's level. -/
theorem TxFrameAt.tick {s t u : State} {d : Byte} {j k : Nat} (h : TxFrameAt s d j k t.txView) (ht : t.Inv) (hpar : t.par = s.par)
    (hj : j < 10) (h1 : t.txg.cnt = 1)
    (hu : exec (txTickOf t.tx_state) (t.setGen .tx { act := true, cnt := t.par.P }) = .next u) :
    TxFrameAt s d (j + 1) (k + 1) u.txView := by
  have hst : t.tx_state = txFramePhase j := h.state
  have hdue : k + t.txg.cnt = s.par.TX_OFF + j * s.par.P + 1 := h.due
  have hnext : k + 1 + t.par.P = s.par.TX_OFF + (j + 1) * s.par.P + 1 := by
    rw [hpar, Nat.succ_mul]
    omega
  rw [hst] at hu
  obtain _ | _ | n := j
  · cases hu
    exact ⟨by omega, rfl, rfl, hnext, h.level, fun _ => h.queued (by omega), nofun, fun hj => absurd hj (by omega)⟩
  · obtain ⟨vs, hvs⟩ := h.queued (by omega)
    obtain ⟨q, hq, -⟩ := Ring.get_of_contents .tx t.par.EMPTY_VALUE ht.tx_ring.tail_lt (hpar ▸ hvs)
    cases (txTickStart_of_get (s := t.setGen .tx { act := true, cnt := t.par.P }) hq).symm.trans hu
    refine ⟨by omega, rfl, rfl, hnext, rfl, fun hj => absurd hj (by omega), fun n hn => ?_, fun _ => rfl⟩
    obtain rfl : n = 0 := by omega
    rfl
  · have hn : n < 8 := by omega
    have hphase : txFramePhase (n + 2) = .bit := if_pos hn
    rw [hphase] at hu hst
    cases hu
    have hidx : t.tx_idx = BitVec.ofNat 3 n := h.idx n rfl
    have hto : t.tx_idx.toNat = n := by rw [hidx]; exact Nat.mod_eq_of_lt hn
    have hbyte : t.tx_shift = d := h.byte (by omega)
    refine ⟨by omega, ?_, rfl, hnext, ?_, fun hj => absurd hj (by omega), fun m hm => ?_, fun _ => hbyte⟩
    · have hlast : t.tx_idx = 7#3 ↔ n = 7 := by rw [← hto]; exact BitVec.toNat_inj.symm
      change (if t.tx_idx = 7#3 then Fsm.stop else t.tx_state) = txFramePhase (n + 3)
      rw [hst]
      by_cases hn7 : n = 7
      · simp [hlast, hn7, txFramePhase]
      · have hn' : n + 1 < 8 := by omega
        simp [hlast, hn7, txFramePhase, hn']
    · change t.tx_shift.getLsbD t.tx_idx.toNat = _
      rw [hbyte, hto]
      rfl
    · obtain rfl : m = n + 1 := by omega
      change t.tx_idx + 1#3 = _
      rw [hidx, BitVec.ofNat_add]

/-- Until the Stop tick the TX sub-step moves the frame one cycle on, by the count or by a tick. -/
theorem TxFrameAt.txSubstep_next {s t u : State} {d : Byte} {j k : Nat} (h : TxFrameAt s d j k t.txView) (ht : t.Inv)
    (hpar : t.par = s.par) (hk : k < s.par.TX_OFF + 10 * s.par.P) (hu : txSubstep t = .next u) :
    ∃ i, TxFrameAt s d i (k + 1) u.txView := by
  have hdue : k + t.txg.cnt = s.par.TX_OFF + j * s.par.P + 1 := h.due
  have hg : t.txg.act = true := h.active
  obtain ⟨h1, hP⟩ := ht.r28.tx_cnt hg
  obtain hc | hc : 2 ≤ t.txg.cnt ∨ t.txg.cnt = 1 := by omega
  · cases (txSubstep_down hg hc (hP.trans_lt t.par.P_lt_two_pow_CW)).symm.trans hu
    refine ⟨j, h.last, h.state, rfl, ?_, h.level, h.queued, h.idx, h.byte⟩
    change k + 1 + (t.txg.cnt - 1) = _
    omega
  · have hj : j < 10 := Nat.lt_of_mul_lt_mul_right (a := s.par.P) (by omega)
    exact ⟨j + 1, h.tick ht hpar hj hc ((txSubstep_fire hg hc).symm.trans hu)⟩

/-- Without INIT the host sub-step keeps the bytes queued, in front. -/
theorem hostSubstep_txb_front {s t : State} (hs : s.Inv) (hno : s.without isInit 1) (h : hostSubstep s = .next t) :
    s.txb.contents s.par.TX_CAP <+: t.txb.contents s.par.TX_CAP := by
  obtain hview | ⟨d, -, -, hview⟩ := hostSubstep_tx_cases hno h
  · rw [show t.txb = s.txb from congrArg TxView.txb hview]
  · rw [show t.txb = _ from congrArg TxView.txb hview]
    exact Ring.contents_put_front .tx d hs.tx_ring hs.tx_mem

/-- The host sub-step without INIT does not move the frame. -/
theorem TxFrameAt.hostSubstep_next {s t u : State} {d : Byte} {j k : Nat} (h : TxFrameAt s d j k t.txView) (ht : t.Inv)
    (hpar : t.par = s.par) (hno : t.without isInit 1) (hu : hostSubstep t = .next u) : TxFrameAt s d j k u.txView := by
  rw [hostSubstep_txView_busy h.active hno hu]
  refine ⟨h.last, h.state, h.active, h.due, h.level, fun hj => ?_, h.idx, h.byte⟩
  obtain ⟨vs, hvs⟩ := h.queued hj
  have hvs : t.txb.contents t.par.TX_CAP = d :: vs := hpar ▸ hvs
  obtain ⟨ws, hws⟩ := hostSubstep_txb_front ht hno hu
  rw [hvs, hpar] at hws
  exact ⟨vs ++ ws, hws.symm⟩

/-- Until the Stop tick a cycle moves the frame one cycle on. -/
theorem TxFrameAt.step_next {s t u : State} {d : Byte} {j k : Nat} (h : TxFrameAt s d j k t.txView) (ht : t.Inv)
    (hpar : t.par = s.par) (hno : t.without isInit 1) (hk : k < s.par.TX_OFF + 10 * s.par.P) (hu : step t = .next u) :
    ∃ i, TxFrameAt s d i (k + 1) u.txView := by
  obtain ⟨c, e, hc, he, rfl⟩ := step_next_of_run hu hno.rst
  obtain ⟨b, hview, hbi, hb⟩ := tickSide_of_tx hc
  have hbpar : b.par = s.par := (show b.par = t.par from congrArg TxView.par hview).trans hpar
  obtain ⟨i, hframe⟩ := (hview ▸ h).txSubstep_next (hbi ht) hbpar hk hb
  have hnoc := hno.congr (tickSide_inputs hc)
  exact ⟨i, (hframe.hostSubstep_next (tickSide_keeps_inv ht hc) ((tickSide_par hc).trans hpar) hnoc he :)⟩

/-- A PUT_BYTE that arms the transmitter begins the frame of its byte. -/
theorem txFrameAt_first {s c t : State} {d : Byte} (hs : s.Inv) (hw : s.issues (0x50#8 ++ d)) (hc : tickSide s = .next c)
    (hoff : c.txg.act = false) (h : step s = .next t) : TxFrameAt s d 0 1 t.txView := by
  obtain ⟨c', u, hc', hu, rfl⟩ := step_of_issues (decodeCmd_putByte d) hw h
  cases hc.symm.trans hc'
  have hci := tickSide_keeps_inv hs hc
  obtain ⟨hline, hidle, hcount⟩ := line_high_of_tx_off hci hoff
  obtain ⟨-, -, -, -, -, -, hcap⟩ := c.par.legal_iff.mp hci.legal
  obtain ⟨u', hu', hbytes⟩ := putByte_contents hci d (by omega)
  cases hu'.symm.trans hu
  have hpar : c.par = s.par := tickSide_par hc
  rw [Ring.contents_of_empty hcount, hpar] at hbytes
  cases (putByte_eq d c).symm.trans hu
  refine ⟨by omega, hidle, ?_, ?_, hline, fun _ => ⟨[], hbytes⟩, nofun, fun hj => absurd hj (by omega)⟩
  · simp [State.txView, hoff]
  · simp only [State.txView, endCycle_txg, hoff, hpar, Bool.false_eq_true, if_false]
    omega

/-- From the cycle of the PUT_BYTE the transmitter is in that frame up to the Stop tick. -/
theorem txFrameAt_run {s c : State} {d : Byte} {n : Nat} (hs : s.Inv) (hw : s.issues (0x50#8 ++ d)) (hc : tickSide s = .next c)
    (hoff : c.txg.act = false) (hno : s.without isInit n) (hn : n ≤ s.par.TX_OFF + 10 * s.par.P) {k : Nat} (h1 : 1 ≤ k) :
    k ≤ n → ∃ j t, cycles k s = .next t ∧ TxFrameAt s d j k t.txView := by
  induction k, h1 using Nat.le_induction with
  | base =>
    obtain ⟨t, ht⟩ := step_completes hs.legal
    exact fun _ => ⟨0, t, (cycles_one s).trans ht, txFrameAt_first hs hw hc hoff ht⟩
  | succ k _ ih =>
    intro hk
    obtain ⟨j, t, hrun, hframe⟩ := ih (Nat.le_of_succ_le hk)
    have ht := cycles_keeps_inv hs hrun
    obtain ⟨u, hu⟩ := step_completes ht.legal
    obtain ⟨i, hnext⟩ := hframe.step_next ht (cycles_par hrun) (hno.after hk hrun) (Nat.lt_of_lt_of_le hk hn) hu
    exact ⟨i, u, (cycles_snoc hrun).trans hu, hnext⟩

/-! ## After the Stop tick -/

/-- At the start of cycle `k`, no Start tick comes before cycle `e`: the machine is idle, or its Start tick is due in `e` or
later. -/
def NoStartBefore (e k : Nat) (v : TxView) : Prop := v.tx_state = .idle ∨ (v.tx_state = .start ∧ e < k + v.txg.cnt)

/-- Up to the next Start tick the line is high. -/
theorem NoStartBefore.line_high {e k : Nat} {t : State} (h : NoStartBefore e k t.txView) (ht : t.Inv) : t.tx_o = true :=
  ht.line_high (h.imp id And.left)

/-- The host sub-step without INIT brings no Start tick nearer: it arms an idle transmitter at most. -/
theorem NoStartBefore.hostSubstep_next {e k : Nat} {t u : State} (h : NoStartBefore e k t.txView) (ht : t.Inv)
    (hno : t.without isInit 1) (hu : hostSubstep t = .next u) : NoStartBefore e k u.txView := by
  obtain hst | ⟨hst, hcnt⟩ := h
  · left
    obtain hview | ⟨d, -, -, hview⟩ := hostSubstep_tx_cases hno hu <;> exact hview ▸ hst
  · right
    have hst : t.tx_state = .start := hst
    rw [hostSubstep_txView_busy (ht.tx_active (by simp [hst])) hno hu]
    exact ⟨hst, hcnt⟩

/-- The TX sub-step brings the Start tick one cycle nearer, or, by an Idle tick, sets it a bit period away. -/
theorem NoStartBefore.txSubstep_next {e k : Nat} {t u : State} (h : NoStartBefore e k t.txView) (ht : t.Inv) (hk : k < e)
    (he : e ≤ k + t.par.P) (hu : txSubstep t = .next u) : NoStartBefore e (k + 1) u.txView := by
  obtain ⟨hg, hoff⟩ | ⟨hg, h1, hfire⟩ | ⟨hg, h1, hdec⟩ := txSubstep_cases t
  · cases hoff.symm.trans hu
    exact .inl (ht.r28.tx_off hg).1
  · obtain hst | ⟨-, hcnt⟩ := h
    · have hst : t.tx_state = .idle := hst
      rw [hst] at hfire
      cases hfire.symm.trans hu
      refine .inr ⟨rfl, ?_⟩
      change e < k + 1 + t.par.P
      omega
    · have hcnt : e < k + t.txg.cnt := hcnt
      omega
  · cases hdec.symm.trans hu
    obtain ⟨hpos, hP⟩ := ht.r28.tx_cnt hg
    obtain hst | ⟨hst, hcnt⟩ := h
    · exact .inl hst
    · refine .inr ⟨hst, ?_⟩
      have hcnt : e < k + t.txg.cnt := hcnt
      change e < k + 1 + decInWidth t.par.CW t.txg.cnt
      rw [decInWidth_count hpos hP]
      omega

theorem NoStartBefore.step_next {e k : Nat} {t u : State} (h : NoStartBefore e k t.txView) (ht : t.Inv) (hno : t.without isInit 1)
    (hk : k < e) (he : e ≤ k + t.par.P) (hu : step t = .next u) : NoStartBefore e (k + 1) u.txView := by
  obtain ⟨c, d, hc, hd, rfl⟩ := step_next_of_run hu hno.rst
  obtain ⟨b, hview, hbi, hb⟩ := tickSide_of_tx hc
  have hbpar : b.par = t.par := congrArg TxView.par hview
  have hcn : NoStartBefore e (k + 1) c.txView := (hview ▸ h).txSubstep_next (hbi ht) hk (hbpar ▸ he) hb
  exact (hcn.hostSubstep_next (tickSide_keeps_inv ht hc) (hno.congr (tickSide_inputs hc)) hd :)

/-- The Stop tick leaves the transmitter idle, or with a Start tick due a bit period later. -/
theorem tickSide_stop_no_start {e k : Nat} {t c : State} (ht : t.Inv) (hst : t.tx_state = .stop) (h1 : t.txg.cnt = 1)
    (he : e ≤ k + t.par.P) (hc : tickSide t = .next c) : NoStartBefore e (k + 1) c.txView := by
  by_cases hcount : t.txb.count = 0
  · rw [tickSide_disarms ht hst h1 hcount hc]
    exact .inl rfl
  · rw [tickSide_restarts ht hst h1 hcount hc]
    exact .inr ⟨rfl, by simp only []; omega⟩

/-- After the Stop tick, for a bit period, no Start tick comes, so the line is high. -/
theorem noStart_after_stop {s w : State} {d : Byte} {j e : Nat} (hs : s.Inv) (he : e = s.par.TX_OFF + 10 * s.par.P)
    (hw : cycles e s = .next w) (hframe : TxFrameAt s d j e w.txView) (hno : s.without isInit (e + s.par.P))
    {k : Nat} (hk : e + 1 ≤ k) :
    k ≤ e + s.par.P → ∃ t, cycles k s = .next t ∧ t.Inv ∧ NoStartBefore (e + s.par.P) k t.txView := by
  induction k, hk using Nat.le_induction with
  | base =>
    intro hle
    have hwi := cycles_keeps_inv hs hw
    have hpar : w.par = s.par := cycles_par hw
    have hnow := hno.after (Nat.lt_of_succ_le hle) hw
    obtain ⟨t, ht⟩ := step_completes hwi.legal
    refine ⟨t, (cycles_snoc hw).trans ht, step_keeps_inv hwi ht, ?_⟩
    obtain ⟨c, u, hc, hu, rfl⟩ := step_next_of_run ht hnow.rst
    obtain ⟨hst, h1⟩ := hframe.at_stop hwi.tx hpar he
    have hcn := tickSide_stop_no_start (k := e) hwi hst h1 (le_of_eq (congrArg (e + Params.P ·) hpar.symm)) hc
    exact (hcn.hostSubstep_next (tickSide_keeps_inv hwi hc) (hnow.congr (tickSide_inputs hc)) hu :)
  | succ k hk ih =>
    intro hle
    obtain ⟨t, hrun, ht, hn⟩ := ih (Nat.le_of_succ_le hle)
    have hpar : t.par = s.par := cycles_par hrun
    obtain ⟨u, hu⟩ := step_completes ht.legal
    exact ⟨u, (cycles_snoc hrun).trans hu, step_keeps_inv ht hu,
      hn.step_next ht (hno.after (Nat.lt_of_succ_le hle) hrun) hle (by rw [hpar]; omega) hu⟩

/-! ## The next frame -/

/-- The levels a run has come to, and those after them. -/
theorem cycles_inputAt {k : Nat} {s t : State} (h : cycles k s = .next t) (m : Nat) : t.inputAt m = s.inputAt (k + m) := by
  induction k generalizing s with
  | zero => rw [← next_inj h, Nat.zero_add]
  | succ k ih =>
    rw [cycles_succ, andThen_eq_next] at h
    obtain ⟨u, hu, ht⟩ := h
    rw [ih ht, inputAt_tail (step_inputs hu), Nat.add_right_comm]

/-- What a run does without, the rest of it does without. -/
theorem State.without.rest {bad : CmdWord → Bool} {k n : Nat} {s t : State} (h : s.without bad (k + n))
    (hrun : cycles k s = .next t) : t.without bad n :=
  fun m hm => by rw [cycles_inputAt hrun]; exact h (k + m) (Nat.add_lt_add_left hm k)

/-- The cycle of a Start tick leaves the line low. -/
theorem step_start_tick {s t : State} (hs : s.Inv) (hst : s.tx_state = .start) (h1 : s.txg.cnt = 1) (hno : s.without isInit 1)
    (h : step s = .next t) : t.tx_o = false := by
  obtain ⟨c, d, hc, hd, rfl⟩ := step_next_of_run h hno.rst
  obtain ⟨b, hview, -, hb⟩ := tickSide_of_tx hc
  have hbst : b.tx_state = .start := (congrArg TxView.tx_state hview).trans hst
  have hbg : b.txg = s.txg := congrArg TxView.txg hview
  have hfire := txSubstep_fire (hbg ▸ hs.tx_active (by simp [hst])) (hbg ▸ h1)
  rw [hbst] at hfire
  obtain ⟨vo, q, -, rfl⟩ := execTxTickStart_next (hfire.symm.trans hb)
  exact congrArg TxView.tx_o (hostSubstep_txView_busy rfl (hno.congr (tickSide_inputs hc)) hd)

/-- With a byte queued, the cycle of the Stop tick leaves the machine in START for a bit period. -/
theorem step_restarts {s t : State} (hs : s.Inv) (hst : s.tx_state = .stop) (h1 : s.txg.cnt = 1) (hc : s.txb.count ≠ 0)
    (hno : s.without isInit 1) (h : step s = .next t) : t.tx_state = .start ∧ t.txg = { act := true, cnt := s.par.P } := by
  obtain ⟨c, d, hc', hd, rfl⟩ := step_next_of_run h hno.rst
  have hview := tickSide_restarts hs hst h1 hc hc'
  have hact : c.txg.act = true := congrArg (fun v => v.txg.act) hview
  have hdv := hostSubstep_txView_busy hact (hno.congr (tickSide_inputs hc')) hd
  rw [hview] at hdv
  exact ⟨congrArg TxView.tx_state hdv, congrArg TxView.txg hdv⟩

/-- With a byte queued at the Stop tick the next start bit is driven exactly a bit period later. -/
theorem start_after_stop {s t : State} (hs : s.Inv) (hst : s.tx_state = .stop) (h1 : s.txg.cnt = 1) (hc : s.txb.count ≠ 0)
    (hno : s.without isInit (s.par.P + 1)) (ht : cycles (s.par.P + 1) s = .next t) : t.tx_o = false := by
  obtain ⟨hP, -⟩ := s.par.legal_iff.mp hs.legal
  obtain ⟨n, hn⟩ : ∃ n, s.par.P = n + 1 := ⟨s.par.P - 1, by omega⟩
  rw [hn, Nat.add_comm] at hno
  obtain ⟨x, hx⟩ := step_completes hs.legal
  have hrunx : cycles 1 s = .next x := (cycles_one s).trans hx
  have hxi := step_keeps_inv hs hx
  have hnox : x.without isInit (n + 1) := hno.rest hrunx
  obtain ⟨hxst, hxg⟩ := step_restarts hs hst h1 hc (hno.after (by omega) (cycles_zero s)) hx
  obtain ⟨y, hy, hcount⟩ := txCounting_run (n := n) hxi (by rw [hxg]) (by rw [hxg, hn]; exact Nat.lt_succ_self n)
    fun k hk => hnox k (Nat.lt_succ_of_lt hk)
  have hyg : y.txg = { act := true, cnt := x.txg.cnt - n } := congrArg TxView.txg hcount
  have hrun : cycles (n + 1 + 1) s = step y := by
    rw [cycles_succ, hx, andThen_next, cycles_snoc hy]
  rw [hn, hrun] at ht
  refine step_start_tick (cycles_keeps_inv hxi hy) ((congrArg TxView.tx_state hcount).trans hxst) ?_
    (hnox.after (Nat.lt_succ_self n) hy) ht
  rw [hyg, hxg, hn]
  exact Nat.add_sub_cancel_left n 1

/-! ## The obligation -/

/-- The levels of R126 from the PUT_BYTE up to a bit period after the Stop tick. -/
theorem txFrame_levels {s c : State} {d : Byte} (hs : s.Inv) (hw : s.issues (0x50#8 ++ d)) (hc : tickSide s = .next c)
    (hoff : c.txg.act = false) (hno : s.without isInit (s.par.TX_OFF + 11 * s.par.P)) {k : Nat} (h1 : 1 ≤ k)
    (hk : k ≤ s.par.TX_OFF + 11 * s.par.P) :
    ∃ t, cycles k s = .next t ∧
      t.tx_o = if k ≤ s.par.TX_OFF + s.par.P then true
        else if k ≤ s.par.TX_OFF + 2 * s.par.P then false
        else if k ≤ s.par.TX_OFF + 10 * s.par.P then d.getLsbD ((k - 1 - (s.par.TX_OFF + s.par.P)) / s.par.P - 1)
        else true := by
  have hno10 : s.without isInit (s.par.TX_OFF + 10 * s.par.P) := fun m hm => hno m (by omega)
  obtain hle | hgt := le_or_gt k (s.par.TX_OFF + 10 * s.par.P)
  · obtain ⟨j, t, hrun, hframe⟩ := txFrameAt_run hs hw hc hoff hno10 (Nat.le_refl _) h1 hle
    refine ⟨t, hrun, ?_⟩
    rw [if_pos hle]
    exact hframe.level_eq (cycles_keeps_inv hs hrun).tx (cycles_par hrun)
  · obtain ⟨j, w, hrunw, hframe⟩ := txFrameAt_run hs hw hc hoff hno10 (Nat.le_refl _) (by omega) (Nat.le_refl _)
    obtain ⟨t, hrun, ht, hn⟩ := noStart_after_stop hs rfl hrunw hframe (fun m hm => hno m (by omega)) hgt (by omega)
    refine ⟨t, hrun, ?_⟩
    rw [hn.line_high ht, if_neg (by omega), if_neg (by omega), if_neg (by omega)]

/-- Settles O51: the levels are `txFrame_levels`; at the Stop tick the transmitter disarms, or goes on to the next start bit,
which `start_after_stop` gives. -/
theorem transmittedFrameSchedule : Obligations.TransmittedFrameSchedule := by
  intro s d hs hw hoff hno
  obtain ⟨c, hc, hoff⟩ := hoff
  refine ⟨fun k h1 hk => txFrame_levels hs hw hc hoff (fun m hm => hno m (by omega)) h1 hk, ?_⟩
  obtain ⟨j, w, hrun, hframe⟩ := txFrameAt_run hs hw hc hoff (n := s.par.TX_OFF + 10 * s.par.P) (fun m hm => hno m (by omega))
    (Nat.le_refl _) (by obtain ⟨hP, -⟩ := s.par.legal_iff.mp hs.legal; omega) (Nat.le_refl _)
  have hwi := cycles_keeps_inv hs hrun
  have hpar : w.par = s.par := cycles_par hrun
  obtain ⟨hst, h1⟩ := hframe.at_stop hwi.tx hpar rfl
  have hsplit : s.par.TX_OFF + 11 * s.par.P + 1 = s.par.TX_OFF + 10 * s.par.P + (w.par.P + 1) := by rw [hpar]; omega
  rw [hsplit] at hno ⊢
  obtain ⟨v, hv⟩ := tickSide_completes w
  refine ⟨w, v, hrun, hv, fun hcount => ?_, fun hcount => ?_⟩
  · have hview := tickSide_disarms hwi hst h1 hcount hv
    exact ⟨congrArg (fun v => v.txg.act) hview, congrArg TxView.tx_state hview, congrArg TxView.tx_o hview⟩
  · obtain ⟨t, ht⟩ := cycles_complete hwi.legal (w.par.P + 1)
    exact ⟨t, by rw [cycles_add, hrun, andThen_next, ht], start_after_stop hwi hst h1 hcount (hno.rest hrun) ht⟩

end Sys2Proof.Machine

/-! PROOFS of the family 'other', the round trip over a looped line (O52). The transmit side does not see the line (O44), so it
sends in the looped run what it sends in the plain one; and the receive side sees nothing else (O45), so in the looped run it
becomes what it becomes in a plain run whose line levels are those the port shows (`State.looped`). There the transmitted
schedule gives the levels, and the received schedule what is made of them. -/

namespace Sys2Proof.Machine

/-! ## A looped run, side by side -/

/-- One more cycle at the end of a looped run. -/
theorem loopCycles_snoc {n : Nat} {s t : State} (h : loopCycles n s = .next t) : loopCycles (n + 1) s = step t.loopBack := by
  induction n generalizing s with
  | zero =>
    rw [← next_inj h, loopCycles]
    generalize step s.loopBack = o
    cases o <;> rfl
  | succ n ih =>
    rw [loopCycles, andThen_eq_next] at h
    obtain ⟨u, hu, ht⟩ := h
    rw [loopCycles, hu, andThen_next, ih ht]

/-- A looped run has the transmit side, and the inputs to come, of the plain run. -/
theorem loopCycles_txView {s : State} (hl : s.par.legal = true) (k : Nat) :
    ∃ l t, loopCycles k s = .next l ∧ cycles k s = .next t ∧ l.txView = t.txView ∧ l.inputs = t.inputs := by
  induction k with
  | zero => exact ⟨s, s, rfl, rfl, rfl, rfl⟩
  | succ k ih =>
    obtain ⟨l, t, hloop, hrun, hview, hin⟩ := ih
    have hlt : t.par.legal = true := cycles_par hrun ▸ hl
    have hll : l.par.legal = true := (show l.par = t.par from congrArg TxView.par hview) ▸ hlt
    obtain ⟨t', ht'⟩ := step_completes hlt
    obtain ⟨l', hl'⟩ := step_completes (s := l.loopBack) hll
    have hinput : l.input = t.input := input_congr hin
    refine ⟨l', t', (loopCycles_snoc hloop).trans hl', (cycles_snoc hrun).trans ht', ?_, ?_⟩
    · exact txSideIgnoresTheRxSide l.loopBack t l' t' hview (congrArg Input.rst hinput :) (congrArg Input.cmd_valid hinput :)
        (congrArg Input.cmd hinput :) hl' ht'
    · rw [step_inputs hl', step_inputs ht', ← hin]
      rfl

/-- The level on the port `tx_o` in cycle `k` of a run. -/
def State.portLevel (s : State) (k : Nat) : Bool :=
  match cycles k s with
  | .next t => t.tx_o
  | _ => true

theorem portLevel_of_run {s t : State} {k : Nat} (h : cycles k s = .next t) : s.portLevel k = t.tx_o := by
  simp only [State.portLevel, h]

/-- `s` with the line, for `n` cycles, at the levels its own port is going to show, and with idle inputs after them. -/
def State.looped (n : Nat) (s : State) : State :=
  { s with inputs := (List.range n).map fun k => { s.inputAt k with rx_i := s.portLevel k } }

theorem looped_inputAt {s : State} {n k : Nat} (hk : k < n) :
    (s.looped n).inputAt k = { s.inputAt k with rx_i := s.portLevel k } := by
  simp [State.looped, State.inputAt, List.getD, hk]

theorem looped_without {bad : CmdWord → Bool} {s : State} {n : Nat} (h : s.without bad n) (m : Nat) :
    (s.looped n).without bad m := by
  intro k _
  obtain hk | hk := Nat.lt_or_ge k n
  · rw [looped_inputAt hk]
    exact h k hk
  · have hidle : (s.looped n).inputAt k = Input.idle := by
      simp [State.looped, State.inputAt, List.getD, hk]
    rw [hidle]
    exact ⟨rfl, nofun⟩

/-- A looped run has the receive side of the plain run on the port's levels. -/
theorem loopCycles_rxView {s : State} (hl : s.par.legal = true) {n k : Nat} (hk : k ≤ n) :
    ∃ l r, loopCycles k s = .next l ∧ cycles k (s.looped n) = .next r ∧ l.rxView = r.rxView := by
  induction k with
  | zero => exact ⟨s, s.looped n, rfl, rfl, rfl⟩
  | succ k ih =>
    obtain ⟨l, r, hloop, hrun, hview⟩ := ih (Nat.le_of_succ_le hk)
    obtain ⟨l', t, hl', ht, htx, hin⟩ := loopCycles_txView hl k
    cases hloop.symm.trans hl'
    have hlr : r.par.legal = true := (cycles_par hrun).symm ▸ hl
    have hll : l.par.legal = true := (show l.par = r.par from congrArg RxView.par hview) ▸ hlr
    obtain ⟨r', hr'⟩ := step_completes hlr
    obtain ⟨l', hl'⟩ := step_completes (s := l.loopBack) hll
    have hline : l.tx_o = s.portLevel k := (congrArg TxView.tx_o htx).trans (portLevel_of_run ht).symm
    have hinput : l.loopBack.input = r.input := by
      have hl : l.input = s.inputAt k := (input_congr hin).trans (cycles_input ht)
      rw [cycles_input hrun, looped_inputAt hk, ← hline, ← hl]
      rfl
    exact ⟨l', r', (loopCycles_snoc hloop).trans hl', (cycles_snoc hrun).trans hr',
      rxSideIgnoresTheTxSide l.loopBack r l' r' hview hinput hl' hr'⟩

/-! ## A plain run of the receive side -/

/-- An idle receiver that saw the line high: a cycle with the line high, without INIT and GET_BYTE, leaves the receive side. -/
theorem step_line_high {s t : State} (hs : s.Inv) (hst : s.rx_state = .idle) (hprev : s.rx_prev = true)
    (hno : s.without isInitOrGet 1) (hline : s.input.rx_i = true) (h : step s = .next t) : t.rxView = s.rxView := by
  obtain ⟨c, d, hc, hd, rfl⟩ := step_next_of_run h hno.rst
  have hc' := tickSide_rx_idle hs hst (by simp [State.fall, State.rx_i, hline]) hc
  have hnote : s.noteLevel.rxView = s.rxView := by simp [State.rxView, State.rx_i, hline, hprev]
  exact (hostSubstep_rxView (hno.congr (tickSide_inputs hc)) hd).trans (hc'.trans hnote)

/-- An idle receiver that saw the line high keeps its side while the line stays high. -/
theorem rxView_run_line_high {s : State} {n : Nat} (hs : s.Inv) (hst : s.rx_state = .idle) (hprev : s.rx_prev = true)
    (hno : s.without isInitOrGet n) (hline : ∀ k, k < n → (s.inputAt k).rx_i = true) :
    ∃ t, cycles n s = .next t ∧ t.rxView = s.rxView := by
  induction n with
  | zero => exact ⟨s, rfl, rfl⟩
  | succ n ih =>
    obtain ⟨t, hrun, hview⟩ := ih (fun k hk => hno k (Nat.lt_succ_of_lt hk)) fun k hk => hline k (Nat.lt_succ_of_lt hk)
    have ht := cycles_keeps_inv hs hrun
    obtain ⟨u, hu⟩ := step_completes ht.legal
    refine ⟨u, (cycles_snoc hrun).trans hu, (step_line_high ht ?_ ?_ (hno.after (Nat.lt_succ_self n) hrun) ?_ hu).trans hview⟩
    · exact (congrArg RxView.rx_state hview).trans hst
    · exact (congrArg RxView.rx_prev hview).trans hprev
    · exact cycles_input hrun ▸ hline n (Nat.lt_succ_self n)

/-- Until the eighth Bit tick of a frame, without INIT and GET_BYTE, the RX buffer is as it was when the edge was taken. -/
theorem rxb_before_push {s : State} (hs : s.Inv) (hst : s.rx_state = .idle) (hfall : s.fall = true)
    (hno : s.without isInitOrGet (s.par.RX_OFF + 9 * s.par.P)) {k : Nat} (hk : k ≤ s.par.RX_OFF + 8 * s.par.P) :
    ∃ t, cycles k s = .next t ∧ t.rxb = s.rxb := by
  have hidle : rxSubstep s = .next s := rxSubstep_off (hs.rx_off hst)
  induction k with
  | zero => exact ⟨s, rfl, rfl⟩
  | succ k ih =>
    obtain ⟨t, hrun, hrxb⟩ := ih (Nat.le_of_succ_le hk)
    obtain ⟨t', ht'⟩ := step_completes (cycles_keeps_inv hs hrun).legal
    refine ⟨t', (cycles_snoc hrun).trans ht', ?_⟩
    have hnow := hno.after (k := k) (by omega) hrun
    obtain rfl | hpos := Nat.eq_zero_or_pos k
    · cases hrun
      exact step_rxb hnow hidle ht'
    · obtain ⟨t₀, u, hrun', -, -, hu, -, -, -, -, -, hkeep, -⟩ :=
        receivedFrameSchedule s hs hfall ⟨s, hidle, hs.r28.listening.mpr hst⟩
          (hno.mono fun _ => isInit_of_isInitOrGet) k hpos (by omega)
      cases hrun.symm.trans hrun'
      exact (step_rxb hnow hu ht').trans ((hkeep (by omega)).trans hrxb)

/-- A frame, without INIT and GET_BYTE, puts the byte sampled from the line into the RX buffer as the host left it. -/
theorem frame_puts_byte {s : State} (hs : s.Inv) (hst : s.rx_state = .idle) (hfall : s.fall = true)
    (hno : s.without isInitOrGet (s.par.RX_OFF + 9 * s.par.P)) :
    ∃ t v, cycles (s.par.RX_OFF + 8 * s.par.P + 1) s = .next t ∧ t.rxb = Ring.put .rx s.par.RX_CAP v s.rxb ∧
      ∀ i, i < 8 → v.getLsbD i = (s.inputAt (s.par.RX_OFF + (i + 1) * s.par.P)).rx_i := by
  obtain ⟨hP, hoff, -⟩ := s.par.legal_iff.mp hs.legal
  obtain ⟨t, hrun, hrxb⟩ := rxb_before_push hs hst hfall hno (Nat.le_refl _)
  obtain ⟨t₀, u, hrun', -, -, hu, -, -, -, -, hpush, -, -⟩ :=
    receivedFrameSchedule s hs hfall ⟨s, rxSubstep_off (hs.rx_off hst), hs.r28.listening.mpr hst⟩
      (hno.mono fun _ => isInit_of_isInitOrGet) (s.par.RX_OFF + 8 * s.par.P) (by omega) (by omega)
  cases hrun.symm.trans hrun'
  obtain ⟨-, hput, hbits⟩ := hpush rfl
  obtain ⟨t', ht'⟩ := step_completes (cycles_keeps_inv hs hrun).legal
  refine ⟨t', u.rx_shift, (cycles_snoc hrun).trans ht', ?_, hbits⟩
  rw [step_rxb (hno.after (by omega) hrun) hu ht', ← hput, hrxb]

/-! ## The obligation -/

/-- The levels on the port after a PUT_BYTE into an idle transmitter, up to its Stop tick (R126). -/
theorem portLevel_of_put {s : State} {d : Byte} {k : Nat} (hs : s.Inv) (hw : s.issues (0x50#8 ++ d)) (hoff : s.txg.act = false)
    (hno : s.without isInit k) (hk : k ≤ s.par.TX_OFF + 10 * s.par.P) :
    s.portLevel k = if k ≤ s.par.TX_OFF + s.par.P then true
      else if k ≤ s.par.TX_OFF + 2 * s.par.P then false
      else d.getLsbD ((k - 1 - (s.par.TX_OFF + s.par.P)) / s.par.P - 1) := by
  obtain rfl | hpos := Nat.eq_zero_or_pos k
  · rw [portLevel_of_run (cycles_zero s), if_pos (Nat.zero_le _)]
    exact (line_high_of_tx_off hs hoff).1
  · obtain ⟨c, hc⟩ := tickSide_completes s
    obtain ⟨b, hview, -, hb⟩ := tickSide_of_tx hc
    have hbg : b.txg.act = false := (congrArg (fun v => v.txg.act) hview).trans hoff
    cases (txSubstep_off hbg).symm.trans hb
    obtain ⟨j, t, hrun, hframe⟩ := txFrameAt_run hs hw hc hbg hno hk hpos (Nat.le_refl k)
    rw [portLevel_of_run hrun]
    exact hframe.level_eq (cycles_keeps_inv hs hrun).tx (cycles_par hrun)

/-- On the port's levels, the plain run receives the byte put. -/
theorem looped_receives {s : State} {d : Byte} {n : Nat} (hs : s.Inv) (hst : s.rx_state = .idle) (hprev : s.rx_prev = true)
    (hoff : s.txg.act = false) (hroom : s.rxb.count < s.par.RX_CAP) (hw : s.issues (0x50#8 ++ d))
    (hn : n = s.par.TX_OFF + s.par.RX_OFF + 9 * s.par.P + 2) (hno : s.without isInitOrGet n) :
    ∃ t, cycles n (s.looped n) = .next t ∧ t.Inv ∧ t.rxb.contents s.par.RX_CAP = s.rxb.contents s.par.RX_CAP ++ [d] := by
  obtain ⟨hP, hoff1, hoffP, -⟩ := s.par.legal_iff.mp hs.legal
  have hlevel : ∀ k, k < n → ((s.looped n).inputAt k).rx_i =
      if k ≤ s.par.TX_OFF + s.par.P then true
      else if k ≤ s.par.TX_OFF + 2 * s.par.P then false
      else d.getLsbD ((k - 1 - (s.par.TX_OFF + s.par.P)) / s.par.P - 1) := by
    intro k hk
    rw [looped_inputAt hk]
    exact portLevel_of_put hs hw hoff (fun m hm => (hno.mono fun _ => isInit_of_isInitOrGet) m (by omega)) (by omega)
  have hri : (s.looped n).Inv := hs.of_rx rfl hs.rx
  obtain ⟨w, hrunw, hview⟩ := rxView_run_line_high (n := s.par.TX_OFF + s.par.P + 1) hri hst hprev (looped_without hno _)
    fun k hk => by rw [hlevel k (by omega), if_pos (by omega)]
  have hwi := cycles_keeps_inv hri hrunw
  have hpar : w.par = s.par := (cycles_par hrunw :)
  have hwrxb : w.rxb = s.rxb := congrArg RxView.rxb hview
  have hfall : w.fall = true := by
    have hwprev : w.rx_prev = true := (congrArg RxView.rx_prev hview).trans hprev
    have hlow := hlevel (s.par.TX_OFF + s.par.P + 1) (by omega)
    rw [if_neg (by omega), if_pos (by omega), ← cycles_input hrunw] at hlow
    simp [State.fall, State.rx_i, hwprev, hlow]
  obtain ⟨t, v, hrun, hput, hbits⟩ := frame_puts_byte hwi ((congrArg RxView.rx_state hview).trans hst) hfall
    ((looped_without hno (_ + _)).rest hrunw)
  have hv : v = d := by
    refine BitVec.eq_of_getLsbD_eq fun i hi => ?_
    have hlo : 1 * s.par.P ≤ (i + 1) * s.par.P := Nat.mul_le_mul_right _ (by omega)
    have hhi : (i + 1) * s.par.P ≤ 8 * s.par.P := Nat.mul_le_mul_right _ hi
    have hperiod : s.par.TX_OFF + s.par.P + 1 + (s.par.RX_OFF + (i + 1) * s.par.P) - 1 - (s.par.TX_OFF + s.par.P) =
        s.par.RX_OFF + (i + 1) * s.par.P := by omega
    rw [hbits i hi, hpar, cycles_inputAt hrunw, hlevel _ (by omega), if_neg (by omega), if_neg (by omega), hperiod,
      Nat.add_mul_div_right _ _ (by omega), Nat.div_eq_of_lt (by omega), Nat.zero_add, Nat.add_sub_cancel]
  have hsplit : n = s.par.TX_OFF + s.par.P + 1 + (w.par.RX_OFF + 8 * w.par.P + 1) := by rw [hpar]; omega
  have hrunt : cycles n (s.looped n) = .next t := by rw [hsplit, cycles_add, ← hsplit, hrunw, andThen_next, hrun]
  refine ⟨t, hrunt, cycles_keeps_inv hri hrunt, ?_⟩
  rw [hput, hv, hpar, hwrxb, Ring.contents_put_room .rx d hs.rx_ring hs.rx_mem hroom]

/-- Settles O52: the looped run has the receive side of `looped_receives`, and a GET_BYTE takes the oldest byte held. -/
theorem loopbackRoundTrip : Obligations.LoopbackRoundTrip := by
  intro s d hs hst hprev hoff hroom hw hno
  obtain ⟨t, ht, hti, hbytes⟩ := looped_receives hs hst hprev hoff hroom hw rfl hno
  obtain ⟨l, t', hl, ht', hview⟩ := loopCycles_rxView hs.legal (Nat.le_refl (s.par.TX_OFF + s.par.RX_OFF + 9 * s.par.P + 2))
  cases ht.symm.trans ht'
  have hrxb : l.rxb = t.rxb := congrArg RxView.rxb hview
  have hpar : l.par = s.par := (show l.par = t.par from congrArg RxView.par hview).trans (cycles_par ht :)
  refine ⟨l, hl, hrxb ▸ hbytes, fun hempty => ?_⟩
  rw [Ring.contents_of_empty hempty, ← hrxb, ← hpar] at hbytes
  have hli : l.rxView.Inv := hview ▸ hti.rx
  obtain ⟨q, hq, -⟩ := getByte_of_contents hli.ring.tail_lt hbytes
  exact ⟨_, hq, rfl, rfl⟩

end Sys2Proof.Machine
